-- ==== Sys2Proof/Word.lean ====
section
/-! DEFINITION. The words of CSRBLK (rule R11): register values, bus data, bus addresses and masks are
unsigned 32-bit words; the UART moves bytes. -/

namespace Sys2Proof

/-- A register value, bus address, bus datum or mask: `W = AW = 32` (rule R10). -/
abbrev Word := BitVec 32

/-- The byte a UART backend transmits or receives (rules R123, R124). -/
abbrev Byte := BitVec 8

/-- The 3-bit arbitration level (rule R37). -/
abbrev Level := BitVec 3

/-- The 8-bit vector number (rule R38). -/
abbrev Vec := BitVec 8

end Sys2Proof
end

