-- ==== Sys2Proof/Config.lean ====
section
/-! DEFINITION. What an instance of CSRBLK fixes: the names of its registers, the shape of a register
descriptor, the parameters of rule R10, and the values the spec leaves OPEN or free (opaque: no proof
can see one). The values of the reference instance REF stand in Machine/RegMap.lean. -/

namespace Sys2Proof

/-- The alias kind an address of an alias group selects (rules R15, R23). -/
inductive View where
  | assign
  | clear
  | set
  | invert
deriving DecidableEq, Repr

/-- The direction of an access (rules R41, R182). -/
inductive Dir where
  | read
  | write
deriving DecidableEq, Repr

/-- The registers of the register file, by family (rules R28 to R32). Handles are 0-based:
bank `b` of `tris b` is A..G = 0..6, UART handle `u` is U(u+1), SPI handle `c` is SPI(c+1). -/
inductive Reg where
  | intstat
  | ifs (n : Fin 6)
  | iec (n : Fin 6)
  | ipc (m : Fin 48)
  | syskey
  | rswrst
  | osccon
  | devid
  | tris (b : Fin 7)
  | lat (b : Fin 7)
  | umode (u : Fin 6)
  | usta (u : Fin 6)
  | utxreg (u : Fin 6)
  | urxreg (u : Fin 6)
  | spicon (c : Fin 4)
  | spistat (c : Fin 4)
  | spibuf (c : Fin 4)
deriving DecidableEq, Repr

/-- The action a READ32 of a register runs first (rules R22, R128). -/
inductive ReadHook where
  | none
  | uartRx (u : Fin 6)
  | uartSta (u : Fin 6)
  | spiBufRd (c : Fin 4)
deriving DecidableEq, Repr

/-- The action a permitted WRITE32 to a register runs last (rules R22, R129). -/
inductive WriteHook where
  | none
  | irqRecompute
  | syskey
  | rswrst
  | gpioLat (b : Fin 7)
  | uartTx (u : Fin 6)
  | uartMode (u : Fin 6)
  | spiCon (c : Fin 4)
  | spiBufWr (c : Fin 4)
deriving DecidableEq, Repr

/-- The static descriptor of one register (rule R22). -/
structure RegDesc where
  name : String
  base : Word
  aliased : Bool
  ro : Bool
  roMask : Word
  stored : Bool
  reset : Word
  rhook : ReadHook
  whook : WriteHook
deriving DecidableEq, Repr

/-- The static register table: one descriptor per register (rules R20, R22). -/
abbrev RegMap := Reg → RegDesc

/-- The parameters of the step (rules R10, R44): the register table, the number of interrupt sources
the scan covers, and the vector of each source. -/
structure Params where
  regMap : RegMap
  nSrc : Nat
  vec : Nat → Vec

/-- `OSCCON_RESET`, OPEN (rules R10, R211, R212): no value may be assumed. Log entry 3. -/
opaque Config.oscconReset : Word

/-- `DEVID_RESET`, OPEN (rules R10, R211, R212): no value may be assumed. Log entry 3. -/
opaque Config.devidReset : Word

/-- `SD_CS_BANK`, OPEN, the collaborator's parameter (rules R10, R121). Log entry 14. -/
opaque Config.sdCsBank : Fin 7

/-- `SD_CS_BIT`, OPEN, the collaborator's parameter (rules R10, R121). Log entry 14. -/
opaque Config.sdCsBit : Fin 32

/-- The free answer of the `n`-th unscripted draw, for `uart_poll_receive` (I13). Log entry 8. -/
opaque Config.freeRx : Nat → Option Byte

/-- The free answer of the `n`-th unscripted draw, for `uart_poll_status` (I14). Log entry 8. -/
opaque Config.freeSta : Nat → Option Word

/-- The free answer of the `n`-th unscripted draw, for `spi_read_buffer` (I15). Log entry 8. -/
opaque Config.freeSpi : Nat → Word

end Sys2Proof
end

