-- ==== Sys2Proof/Syntax.lean ====
section
/-! DEFINITION. The instructions of CSRBLK: one constructor per row of spec/opcode_table.json (rules R80,
R85). An operand a request ignores is no argument here (rule R81). -/

namespace Sys2Proof

/-- The nine requests. -/
inductive Instr where
  /-- READ32 (rule R110): `addr` is the register's address, through any view. -/
  | read32 (addr : Word)
  /-- WRITE32.ASSIGN (rule R111): `addr` is the base address. -/
  | writeAssign (addr data : Word)
  /-- WRITE32.CLR (rule R112): `addr` is base + 4. -/
  | writeClr (addr data : Word)
  /-- WRITE32.SET (rule R113): `addr` is base + 8. -/
  | writeSet (addr data : Word)
  /-- WRITE32.INV (rule R114): `addr` is base + 12. -/
  | writeInv (addr data : Word)
  /-- IRQ_RAISE (rule R150). -/
  | irqRaise (index : Word)
  /-- IRQ_CLEAR (rule R151). -/
  | irqClear (index : Word)
  /-- RESET (rule R170). -/
  | reset
  /-- INIT (rule R171): `handle` is the boot-image handle, which CSRBLK does not interpret. -/
  | init (handle : Word)
deriving DecidableEq, Repr

end Sys2Proof
end

