-- ==== Sys2Proof/Machine/Request.lean ====
section
/-! DEFINITION. The inbound interface of CSRBLK: the 67-bit request record (rule R80), its two bit
numberings, and what may arrive at the interface. -/

namespace Sys2Proof.Machine

/-- The request record of rule R80: all fields always present. -/
structure Request where
  kind : BitVec 3
  addr : Word
  data : Word
deriving DecidableEq, Repr

/-- The record as one 67-bit word, `kind` in the high bits (rule R80). -/
def Request.toBits (q : Request) : BitVec 67 :=
  q.kind ++ q.addr ++ q.data

/-- The record a 67-bit word holds (rule R80). -/
def Request.ofBits (w : BitVec 67) : Request where
  kind := w.extractLsb' 64 3
  addr := w.extractLsb' 32 32
  data := w.extractLsb' 0 32

/-- The record whose bits are `w` numbered as spec/opcode_table.json numbers them: bits [6:0] are the
selection key, `kind` over `addr[3:0]` (rule R85); above the key follow `addr[31:4]` and then `data`. -/
def Request.ofTableBits (w : Nat) : Request where
  kind := BitVec.ofNat 3 (w / 2 ^ 4)
  addr := BitVec.ofNat 32 (w / 2 ^ 7 % 2 ^ 28 * 16 + w % 16)
  data := BitVec.ofNat 32 (w / 2 ^ 35)

/-- What arrives at the inbound interface: a request, or a sub-word access by the CPU core, which is no
request of this block and is refused there (rule R51). -/
inductive Inbound where
  | request (q : Request)
  | subWordAccess (addr : Word) (dir : Dir)
deriving DecidableEq, Repr

/-- An interrupt request a backend issues in response to a call (rule R139). -/
inductive BackendIrq where
  | raise (index : Word)
  | clear (index : Word)
deriving DecidableEq, Repr

/-- A backend's raise or clear is a separate IRQ_RAISE or IRQ_CLEAR request (rules R80, R81, R139). -/
def BackendIrq.toRequest : BackendIrq → Request
  | .raise index => { kind := 0b010#3, addr := 0#32, data := index }
  | .clear index => { kind := 0b011#3, addr := 0#32, data := index }

end Sys2Proof.Machine
end

