-- ==== Sys2Proof/Machine/RegMap.lean ====
section
/-! DEFINITION. The registers in table order, the addresses of a descriptor, and the reference instance REF of
the register table and of the parameters (rules R10, R33, R60 to R66; log entries 1, 2, 4, 5). -/

namespace Sys2Proof

/-- Every register of the register file, in the order of rule R33's table. -/
def Reg.all : List Reg :=
  [.intstat]
    ++ (List.finRange 6).map .ifs
    ++ (List.finRange 6).map .iec
    ++ (List.finRange 48).map .ipc
    ++ [.syskey, .rswrst, .osccon, .devid]
    ++ (List.finRange 7).map .tris
    ++ (List.finRange 7).map .lat
    ++ (List.finRange 6).map .umode
    ++ (List.finRange 6).map .usta
    ++ (List.finRange 6).map .utxreg
    ++ (List.finRange 6).map .urxreg
    ++ (List.finRange 4).map .spicon
    ++ (List.finRange 4).map .spistat
    ++ (List.finRange 4).map .spibuf

/-- The offsets from the base of the addresses that decode to a register (rules R23, R24). -/
def RegDesc.offsets (d : RegDesc) : List Nat :=
  if d.aliased then [0, 4, 8, 12] else [0]

/-- The set of addresses that decode to a register, as numbers that do not wrap (rule R53). -/
def RegDesc.addrs (d : RegDesc) : List Nat :=
  d.offsets.map (d.base.toNat + ·)

namespace Machine

/-- The letter of a GPIO bank, A..G (rule R30). -/
def bankLetter (b : Fin 7) : String :=
  match b with
  | 0 => "A"
  | 1 => "B"
  | 2 => "C"
  | 3 => "D"
  | 4 => "E"
  | 5 => "F"
  | 6 => "G"

/-- The symbolic name of a register (rules R28 to R32, decision D37). -/
def refName : Reg → String
  | .intstat => "INTSTAT"
  | .ifs n => "IFS" ++ toString n.val
  | .iec n => "IEC" ++ toString n.val
  | .ipc m => "IPC" ++ toString m.val
  | .syskey => "SYSKEY"
  | .rswrst => "RSWRST"
  | .osccon => "OSCCON"
  | .devid => "DEVID"
  | .tris b => "TRIS" ++ bankLetter b
  | .lat b => "LAT" ++ bankLetter b
  | .umode u => "U" ++ toString (u.val + 1) ++ "MODE"
  | .usta u => "U" ++ toString (u.val + 1) ++ "STA"
  | .utxreg u => "U" ++ toString (u.val + 1) ++ "TXREG"
  | .urxreg u => "U" ++ toString (u.val + 1) ++ "RXREG"
  | .spicon c => "SPI" ++ toString (c.val + 1) ++ "CON"
  | .spistat c => "SPI" ++ toString (c.val + 1) ++ "STAT"
  | .spibuf c => "SPI" ++ toString (c.val + 1) ++ "BUF"

/-- The base addresses of REF (rules R61 to R65). -/
def refBase : Reg → Nat
  | .devid => 0x1F800020
  | .syskey => 0x1F800030
  | .osccon => 0x1F801200
  | .rswrst => 0x1F801250
  | .intstat => 0x1F810020
  | .ifs n => 0x1F810040 + 0x10 * n.val
  | .iec n => 0x1F8100C0 + 0x10 * n.val
  | .ipc m => 0x1F810140 + 0x10 * m.val
  | .tris b => 0x1F860000 + 0x100 * b.val + 0x10
  | .lat b => 0x1F860000 + 0x100 * b.val + 0x30
  | .umode u => 0x1F822000 + 0x200 * u.val
  | .usta u => 0x1F822000 + 0x200 * u.val + 0x10
  | .utxreg u => 0x1F822000 + 0x200 * u.val + 0x20
  | .urxreg u => 0x1F822000 + 0x200 * u.val + 0x30
  | .spicon c => 0x1F821000 + 0x200 * c.val
  | .spistat c => 0x1F821000 + 0x200 * c.val + 0x10
  | .spibuf c => 0x1F821000 + 0x200 * c.val + 0x20

/-- The forward-only registers of REF have no alias views (rules R24, R33). -/
def refAliased : Reg → Bool
  | .syskey => false
  | .utxreg _ => false
  | .spibuf _ => false
  | _ => true

/-- The read-only registers of REF (rule R33). -/
def refRo : Reg → Bool
  | .intstat => true
  | .devid => true
  | .urxreg _ => true
  | _ => false

/-- The read-only bits of each UxSTA in REF (rule R10, decision D25). -/
def ustaRoMask : Word := 0x0000031D#32

/-- The read-only bits of each SPIxSTAT in REF (rules R10, R136). -/
def spistatRoMask : Word := 0xFFFFFFBF#32

/-- The read-only-bit masks of REF (rule R33). -/
def refRoMask : Reg → Word
  | .usta _ => ustaRoMask
  | .spistat _ => spistatRoMask
  | _ => 0x00000000#32

/-- Whether a permitted bus write updates the register in REF (rule R33). INTSTAT, DEVID and UxRXREG admit
no bus write, so the entry is never used for them. -/
def refStored : Reg → Bool
  | .syskey => false
  | .utxreg _ => false
  | .spibuf _ => false
  | .intstat => false
  | .devid => false
  | .urxreg _ => false
  | _ => true

/-- The reset values of REF (rules R33, R211). -/
def refReset : Reg → Word
  | .osccon => Config.oscconReset
  | .devid => Config.devidReset
  | .tris _ => 0xFFFFFFFF#32
  | .lat _ => 0xFFFFFFFF#32
  | _ => 0x00000000#32

/-- The read hooks of REF (rule R33). -/
def refRhook : Reg → ReadHook
  | .usta u => .uartSta u
  | .urxreg u => .uartRx u
  | .spibuf c => .spiBufRd c
  | _ => .none

/-- The write hooks of REF (rule R33). -/
def refWhook : Reg → WriteHook
  | .ifs _ => .irqRecompute
  | .iec _ => .irqRecompute
  | .ipc _ => .irqRecompute
  | .syskey => .syskey
  | .rswrst => .rswrst
  | .lat b => .gpioLat b
  | .umode u => .uartMode u
  | .utxreg u => .uartTx u
  | .spicon c => .spiCon c
  | .spibuf c => .spiBufWr c
  | _ => .none

/-- The descriptor of each register in REF (rules R22, R33). -/
def refDesc (r : Reg) : RegDesc where
  name := refName r
  base := BitVec.ofNat 32 (refBase r)
  aliased := refAliased r
  ro := refRo r
  roMask := refRoMask r
  stored := refStored r
  reset := refReset r
  rhook := refRhook r
  whook := refWhook r

/-- `N_SRC` (rule R10, decision D5). -/
def refNSrc : Nat := 192

/-- `VEC`, the identity (rule R10, decision D6). -/
def refVec (i : Nat) : Vec := BitVec.ofNat 8 i

/-- The parameters of this model's machine: the reference instance REF. -/
def params : Params where
  regMap := refDesc
  nSrc := refNSrc
  vec := refVec

end Machine

end Sys2Proof
end

