-- ==== Sys2Proof/WellFormed.lean ====
section
/-! DEFINITION. What makes an instruction encodable (the key patterns of rule R85), and what makes a
register table and a parameter set well formed (rules R10, R53). -/

namespace Sys2Proof

/-- An instruction is well formed when its address bits [3:0] are those its key pattern demands
(rules R83, R85). -/
def Instr.wf : Instr → Bool
  | .read32 addr => addr.extractLsb' 0 2 == 0#2
  | .writeAssign addr _ => addr.extractLsb' 0 4 == 0x0#4
  | .writeClr addr _ => addr.extractLsb' 0 4 == 0x4#4
  | .writeSet addr _ => addr.extractLsb' 0 4 == 0x8#4
  | .writeInv addr _ => addr.extractLsb' 0 4 == 0xC#4
  | .irqRaise _ => true
  | .irqClear _ => true
  | .reset => true
  | .init _ => true

/-- Rule R53, second condition: the base is a multiple of 16. -/
def RegDesc.aligned (d : RegDesc) : Bool :=
  d.base.toNat % 16 == 0

/-- Rule R53, third condition: no decoded address wraps past 0xFFFFFFFF. -/
def RegDesc.noWrap (d : RegDesc) : Bool :=
  d.addrs.all (· < 2 ^ 32)

/-- Two descriptors whose decoded address sets share no address. -/
def RegDesc.disjoint (d e : RegDesc) : Bool :=
  d.addrs.all fun a => !e.addrs.contains a

/-- Rule R53, first condition, over a list of registers: no register's addresses meet a later one's. -/
def RegMap.disjointOn (m : RegMap) : List Reg → Bool
  | [] => true
  | r :: rs => rs.all (fun q => (m r).disjoint (m q)) && RegMap.disjointOn m rs

/-- A register table is well formed (rule R53). -/
def RegMap.wf (m : RegMap) : Bool :=
  Reg.all.all (fun r => (m r).aligned && (m r).noWrap) && RegMap.disjointOn m Reg.all

/-- A model checks its table once, when it builds it, and refuses one that fails (rule R53). -/
def RegMap.build (m : RegMap) : Option RegMap :=
  if RegMap.wf m then some m else none

/-- The parameters are well formed: the table is, and 1 <= N_SRC <= 192 (rule R10). -/
def Params.wf (p : Params) : Bool :=
  RegMap.wf p.regMap && decide (1 ≤ p.nSrc) && decide (p.nSrc ≤ 192)

end Sys2Proof
end

