-- ==== Sys2Proof/Decode.lean ====
section
/-! DEFINITION. Decoding a request into an instruction (rules R83 to R89) by the (match, mask) rows of rule
R85, and the encoder written from the same table. Decoding is total: a request that no row matches is
rejected by name. -/

namespace Sys2Proof

open Machine (Request)

/-- The 7-bit selection key, `kind` over `addr[3:0]` (rule R85). -/
def requestKey (q : Request) : BitVec 7 :=
  q.kind ++ q.addr.extractLsb' 0 4

/-- The nine instructions of the opcode map, without operands (rule R85). -/
inductive Opcode where
  | read32
  | writeAssign
  | writeClr
  | writeSet
  | writeInv
  | irqRaise
  | irqClear
  | reset
  | init
deriving DecidableEq, Repr

/-- One row of the opcode map: a key belongs to it when its bits under `mask` are those of `pattern`
(the table's "match" and "mask"). -/
structure OpRow where
  opcode : Opcode
  pattern : BitVec 7
  mask : BitVec 7
deriving DecidableEq, Repr

/-- The opcode map of rule R85. -/
def opTable : List OpRow :=
  [ ⟨.read32, 0x00, 0x73⟩,
    ⟨.writeAssign, 0x10, 0x7F⟩,
    ⟨.writeClr, 0x14, 0x7F⟩,
    ⟨.writeSet, 0x18, 0x7F⟩,
    ⟨.writeInv, 0x1C, 0x7F⟩,
    ⟨.irqRaise, 0x20, 0x70⟩,
    ⟨.irqClear, 0x30, 0x70⟩,
    ⟨.reset, 0x40, 0x70⟩,
    ⟨.init, 0x50, 0x70⟩ ]

/-- Whether a key belongs to a row of the opcode map. -/
def OpRow.accepts (row : OpRow) (key : BitVec 7) : Bool :=
  key &&& row.mask == row.pattern

/-- The instruction a key selects, if any (rules R85, R89). -/
def opcodeOfKey (key : BitVec 7) : Option Opcode :=
  (opTable.find? fun row => row.accepts key).map (·.opcode)

/-- An opcode with the operands its request carries (rules R81, R84). -/
def withOperands (op : Opcode) (q : Request) : Instr :=
  match op with
  | .read32 => .read32 q.addr
  | .writeAssign => .writeAssign q.addr q.data
  | .writeClr => .writeClr q.addr q.data
  | .writeSet => .writeSet q.addr q.data
  | .writeInv => .writeInv q.addr q.data
  | .irqRaise => .irqRaise q.data
  | .irqClear => .irqClear q.data
  | .reset => .reset
  | .init => .init q.data

/-- Why a request is no instruction: an access whose `addr[1:0]` is not 00, which is always Unmapped
(rule R87), or a reserved kind (rule R86). -/
inductive Reject where
  | unaligned (addr : Word) (dir : Dir)
  | reservedKind (kind : BitVec 3)
deriving DecidableEq, Repr

/-- The name under which a request that no row matches is rejected (rules R86, R87). -/
def rejectOf (q : Request) : Reject :=
  if q.kind = 0b000#3 then .unaligned q.addr .read
  else if q.kind = 0b001#3 then .unaligned q.addr .write
  else .reservedKind q.kind

/-- The decoder: total on requests. -/
def decode (q : Request) : Except Reject Instr :=
  match opcodeOfKey (requestKey q) with
  | some op => .ok (withOperands op q)
  | none => .error (rejectOf q)

/-- The encoder (rules R80, R81, R85); a field the request ignores is 0. -/
def encode : Instr → Request
  | .read32 addr => { kind := 0b000#3, addr := addr, data := 0#32 }
  | .writeAssign addr data => { kind := 0b001#3, addr := addr, data := data }
  | .writeClr addr data => { kind := 0b001#3, addr := addr, data := data }
  | .writeSet addr data => { kind := 0b001#3, addr := addr, data := data }
  | .writeInv addr data => { kind := 0b001#3, addr := addr, data := data }
  | .irqRaise index => { kind := 0b010#3, addr := 0#32, data := index }
  | .irqClear index => { kind := 0b011#3, addr := 0#32, data := index }
  | .reset => { kind := 0b100#3, addr := 0#32, data := 0#32 }
  | .init handle => { kind := 0b101#3, addr := 0#32, data := handle }

/-- The opcode of an instruction. -/
def opcodeOf : Instr → Opcode
  | .read32 _ => .read32
  | .writeAssign _ _ => .writeAssign
  | .writeClr _ _ => .writeClr
  | .writeSet _ _ => .writeSet
  | .writeInv _ _ => .writeInv
  | .irqRaise _ => .irqRaise
  | .irqClear _ => .irqClear
  | .reset => .reset
  | .init _ => .init

/-- The instruction the decoder reads from a request whose bits are `w`, numbered as
spec/opcode_table.json numbers them; every bit from `nbits` up is 0. -/
def decodeTableWord (nbits w : Nat) : Option Instr :=
  match decode (Request.ofTableBits (w % 2 ^ nbits)) with
  | .ok i => some i
  | .error _ => none

end Sys2Proof
end

