-- ==== Sys2Proof/Machine/RegFile.lean ====
section
/-! DEFINITION. The register file (rules R20, R28 to R32): one 32-bit slot per register, and the one
operation that reads a slot and the one that writes it. -/

namespace Sys2Proof.Machine

/-- The stored values of the 115 registers, by family. A register's four addresses share its one slot
(rule R23). -/
structure RegFile where
  intstat : Word
  ifs : Vector Word 6
  iec : Vector Word 6
  ipc : Vector Word 48
  syskey : Word
  rswrst : Word
  osccon : Word
  devid : Word
  tris : Vector Word 7
  lat : Vector Word 7
  umode : Vector Word 6
  usta : Vector Word 6
  utxreg : Vector Word 6
  urxreg : Vector Word 6
  spicon : Vector Word 4
  spistat : Vector Word 4
  spibuf : Vector Word 4
deriving DecidableEq, Repr

/-- `RF[r]` (rule R12). -/
def RegFile.get (rf : RegFile) : Reg → Word
  | .intstat => rf.intstat
  | .ifs n => rf.ifs[n]
  | .iec n => rf.iec[n]
  | .ipc m => rf.ipc[m]
  | .syskey => rf.syskey
  | .rswrst => rf.rswrst
  | .osccon => rf.osccon
  | .devid => rf.devid
  | .tris b => rf.tris[b]
  | .lat b => rf.lat[b]
  | .umode u => rf.umode[u]
  | .usta u => rf.usta[u]
  | .utxreg u => rf.utxreg[u]
  | .urxreg u => rf.urxreg[u]
  | .spicon c => rf.spicon[c]
  | .spistat c => rf.spistat[c]
  | .spibuf c => rf.spibuf[c]

/-- `RF[r] <- v` (rule R12). -/
def RegFile.set (rf : RegFile) (r : Reg) (v : Word) : RegFile :=
  match r with
  | .intstat => { rf with intstat := v }
  | .ifs n => { rf with ifs := rf.ifs.set n v }
  | .iec n => { rf with iec := rf.iec.set n v }
  | .ipc m => { rf with ipc := rf.ipc.set m v }
  | .syskey => { rf with syskey := v }
  | .rswrst => { rf with rswrst := v }
  | .osccon => { rf with osccon := v }
  | .devid => { rf with devid := v }
  | .tris b => { rf with tris := rf.tris.set b v }
  | .lat b => { rf with lat := rf.lat.set b v }
  | .umode u => { rf with umode := rf.umode.set u v }
  | .usta u => { rf with usta := rf.usta.set u v }
  | .utxreg u => { rf with utxreg := rf.utxreg.set u v }
  | .urxreg u => { rf with urxreg := rf.urxreg.set u v }
  | .spicon c => { rf with spicon := rf.spicon.set c v }
  | .spistat c => { rf with spistat := rf.spistat.set c v }
  | .spibuf c => { rf with spibuf := rf.spibuf.set c v }

/-- The register file that holds `f r` in every register `r`. -/
def RegFile.ofFn (f : Reg → Word) : RegFile where
  intstat := f .intstat
  ifs := Vector.ofFn fun n => f (.ifs n)
  iec := Vector.ofFn fun n => f (.iec n)
  ipc := Vector.ofFn fun m => f (.ipc m)
  syskey := f .syskey
  rswrst := f .rswrst
  osccon := f .osccon
  devid := f .devid
  tris := Vector.ofFn fun b => f (.tris b)
  lat := Vector.ofFn fun b => f (.lat b)
  umode := Vector.ofFn fun u => f (.umode u)
  usta := Vector.ofFn fun u => f (.usta u)
  utxreg := Vector.ofFn fun u => f (.utxreg u)
  urxreg := Vector.ofFn fun u => f (.urxreg u)
  spicon := Vector.ofFn fun c => f (.spicon c)
  spistat := Vector.ofFn fun c => f (.spistat c)
  spibuf := Vector.ofFn fun c => f (.spibuf c)

end Sys2Proof.Machine
end

