-- ==== Sys2Proof/Machine/Operands.lean ====
section
/-! DEFINITION. The operand forms: the address decoder (rules R52, R54), the alias-write protocol with the
read-only-bit merge (rules R100 to R102), and the interrupt index arithmetic (rule R14). -/

namespace Sys2Proof.Machine

/-- The offset of a view's address from the base (rule R23). -/
def viewOffset : View → Word
  | .assign => 0#32
  | .clear => 4#32
  | .set => 8#32
  | .invert => 12#32

/-- The suffix a view's symbolic name carries (rule R52, decision D36). -/
def viewSuffix : View → String
  | .assign => ""
  | .clear => "CLR"
  | .set => "SET"
  | .invert => "INV"

/-- The view of register `r` that `addr` is, if it is one of `r`'s addresses (rule R52). -/
def viewAt (d : RegDesc) (addr : Word) : Option View :=
  if addr = d.base + viewOffset .assign then some .assign
  else if d.aliased = true ∧ addr = d.base + viewOffset .clear then some .clear
  else if d.aliased = true ∧ addr = d.base + viewOffset .set then some .set
  else if d.aliased = true ∧ addr = d.base + viewOffset .invert then some .invert
  else none

/-- The address decoder over a list of registers, in its order. -/
def decodeOn (m : RegMap) (addr : Word) : List Reg → Option (Reg × View)
  | [] => none
  | r :: rs =>
    match viewAt (m r) addr with
    | some k => some (r, k)
    | none => decodeOn m addr rs

/-- `decode(addr)`: the register and view, or none where the address is Unmapped (rule R52). -/
def decodeAddr (p : Params) (addr : Word) : Option (Reg × View) :=
  decodeOn p.regMap addr Reg.all

/-- The symbolic name a decoded address has (rule R52). -/
def symbolicName (p : Params) (r : Reg) (k : View) : String :=
  (p.regMap r).name ++ viewSuffix k

/-- The alias function (rule R100): `v` is the current value, `d` the incoming data. -/
def aliasWrite (k : View) (v d : Word) : Word :=
  match k with
  | .assign => d
  | .clear => v &&& ~~~d
  | .set => v ||| d
  | .invert => v ^^^ d

/-- The read-only-bit merge (rule R101): a bit set in `mask` keeps its old value. -/
def mergeWrite (mask : Word) (k : View) (v d : Word) : Word :=
  (v &&& mask) ||| (aliasWrite k v d &&& ~~~mask)

/-- The byte of a bus datum that the UART transmits, bits [7:0] (rules R84, R123). -/
def transmitByte (d : Word) : Byte :=
  d.extractLsb' 0 8

/-- The word a received byte is stored as (rule R124). -/
def receivedWord (b : Byte) : Word :=
  b.setWidth 32

/-- `flag_reg(i)`: the IFS/IEC register of a source (rule R14). At an index from 192 up there is no such register
and the spec gives none: the quotient wraps modulo 6, DESIGN CHOICE, unsafe there (log entry 19). -/
def flagReg (i : Nat) : Fin 6 :=
  Fin.ofNat 6 (i >>> 5)

/-- `flag_bit(i)`: the bit of a source in its IFS/IEC register (rule R14). -/
def flagBit (i : Nat) : Nat :=
  i &&& 31

/-- `ipc_reg(i)`: the priority register of a source (rule R14). At an index from 192 up there is no such register
and the spec gives none: the quotient wraps modulo 48, DESIGN CHOICE, unsafe there (log entry 19). -/
def ipcReg (i : Nat) : Fin 48 :=
  Fin.ofNat 48 (i >>> 2)

/-- `ipc_shift(i)`: the low bit of a source's priority field (rule R14). -/
def ipcShift (i : Nat) : Nat :=
  2 + 8 * (i &&& 3)

/-- `prio(i)`: the 3-bit priority field of a source (rules R14, R36). -/
def prio (rf : RegFile) (i : Nat) : Level :=
  (rf.get (.ipc (ipcReg i))).extractLsb' (ipcShift i) 3

end Sys2Proof.Machine
end

