-- ==== Sys2Proof/Machine/Flags.lean ====
section
/-! DEFINITION. The flags of CSRBLK, which are the interrupt pending bits (rule R47), and the arbitration
scan over them (rule R152). -/

namespace Sys2Proof.Machine

/-- The pending bit of source `i`: `IFS[n][b]` (rule R34). -/
def flagSet (rf : RegFile) (i : Nat) : Bool :=
  (rf.get (.ifs (flagReg i))).getLsbD (flagBit i)

/-- The enable bit of source `i`: `IEC[n][b]` (rule R35). -/
def enableSet (rf : RegFile) (i : Nat) : Bool :=
  (rf.get (.iec (flagReg i))).getLsbD (flagBit i)

/-- The IFS register of source `i` with the source's bit set (rule R150). -/
def raisedWord (rf : RegFile) (i : Nat) : Word :=
  rf.get (.ifs (flagReg i)) ||| 1#32 <<< flagBit i

/-- The IFS register of source `i` with the source's bit cleared (rule R151). -/
def clearedWord (rf : RegFile) (i : Nat) : Word :=
  rf.get (.ifs (flagReg i)) &&& ~~~(1#32 <<< flagBit i)

/-- The result of the arbitration: the level and the vector (rule R38). -/
structure Arb where
  level : Level
  vector : Vec
deriving DecidableEq, Repr

/-- One turn of the scan's loop: source `i` wins over what was found before only at a strictly greater
priority (rule R152). -/
def scanTurn (p : Params) (rf : RegFile) (a : Arb) (i : Nat) : Arb :=
  if flagSet rf i && enableSet rf i && decide (a.level < prio rf i) then
    { level := prio rf i, vector := p.vec i }
  else a

/-- The scan over the sources below `n`, in ascending order (rule R152). -/
def scanBelow (p : Params) (rf : RegFile) : Nat → Arb
  | 0 => { level := 0#3, vector := 0#8 }
  | n + 1 => scanTurn p rf (scanBelow p rf n) n

/-- The full scan over all `N_SRC` sources (rule R152). -/
def arbitrate (p : Params) (rf : RegFile) : Arb :=
  scanBelow p rf p.nSrc

/-- The word INTSTAT holds: `vector | level << 8` (rules R38, R152). -/
def packStatus (a : Arb) : Word :=
  a.vector.setWidth 32 ||| a.level.setWidth 32 <<< 8

/-- The registers the arbitration reads (rule R157). -/
def ReadByArbiter : Reg → Prop
  | .ifs _ | .iec _ | .ipc _ => True
  | _ => False

end Sys2Proof.Machine
end

