-- ==== Sys2Proof/Machine/State.lean ====
section
/-! DEFINITION. The state of CSRBLK as plain data (file 10_state.md), the reasons a step can stop, and the
state after reset (rule R210). -/

namespace Sys2Proof.Machine

/-- The system-key sequencer (rule R40): Locked = 0, Stage1 = 1, Unlocked = 2, never readable. -/
inductive Sequencer where
  | locked
  | stage1
  | unlocked
deriving DecidableEq, Repr

/-- What the fatal latch records (rule R41). -/
structure Halt where
  addr : Word
  dir : Dir
deriving DecidableEq, Repr

/-- The response status of a request (rule R82). -/
inductive Status where
  | ok
  | roViolation
  | fatal
deriving DecidableEq, Repr

/-- The response record of rule R82. The FATAL response of a READ32 has no value, not 0 (rule R181); an empty
`name` is the empty string. -/
structure Response where
  status : Status
  value : Option Word
  name : String
deriving DecidableEq, Repr

/-- The four error conditions, codes 1 to 4 in this order (rule R180). -/
inductive ErrorCode where
  | unmappedAddress
  | readOnlyViolation
  | invalidSysKeySequence
  | backendFailure
deriving DecidableEq, Repr

/-- The outbound events (rules R13, R43): the backend calls of file 41 and rule R170 with their arguments and
answers, the interrupt notification (rule R156) and the diagnostic report (rule R182). -/
inductive Event where
  | gpioLatchChanged (bank : Fin 7) (value : Word)
  | uartTransmit (port : Fin 6) (byte : Byte)
  | uartPollReceive (port : Fin 6) (answer : Option Byte)
  | uartPollStatus (port : Fin 6) (answer : Option Word)
  | uartApplyMode (port : Fin 6)
  | spiConfigure (channel : Fin 4)
  | spiReadBuffer (channel : Fin 4) (answer : Word)
  | spiWriteBuffer (channel : Fin 4) (value : Word)
  | deviceSoftReset
  | notifyInterrupt (level : Level) (vector : Vec)
  | report (code : ErrorCode) (addr : Word) (dir : Dir) (name : String)
deriving DecidableEq, Repr

/-- The state. The first six fields are the block's own (rules R20, R40, R41, R43, R49, R82); the
others hold what the outside world is still going to do (log entries 6, 7, 8). -/
structure State where
  /-- The register file `RF` (rule R20). -/
  rf : RegFile
  /-- The system-key sequencer `seq` (rule R40). -/
  seq : Sequencer
  /-- The fatal latch `halted` (rule R41). -/
  halted : Option Halt
  /-- Whether the block has had its first RESET or INIT (rules R49, R215). -/
  initialised : Bool
  /-- The response to the latest request (rule R82). -/
  response : Response
  /-- The output trace, oldest event first (rule R43). -/
  trace : List Event
  /-- What will arrive at the inbound interface, next first (rules R50, R69). -/
  inbox : List Inbound
  /-- The backends' interrupt requests that wait to be served, next first (rule R139). -/
  irqPending : List BackendIrq
  /-- The interrupt requests the backends issue in response to the coming calls, one entry a call, next call
  first; past the end they issue none (rule R139). -/
  irqScript : List (List BackendIrq)
  /-- The backends' answers to the coming `uart_poll_receive` calls, next first (rule R124). -/
  rxAnswers : List (Option Byte)
  /-- The backends' answers to the coming `uart_poll_status` calls, next first (rule R125). -/
  staAnswers : List (Option Word)
  /-- The backends' answers to the coming `spi_read_buffer` calls, next first (rule R127). -/
  spiAnswers : List Word
  /-- How many answers have been drawn past the end of the lists above: the model's own counter, to which the
  free answers of Config apply. -/
  drawCount : Nat
deriving DecidableEq, Repr

/-- The reasons for which the machine stops with a fault. -/
inductive Fault where
  /-- UnmappedAddress (rule R181), raised by READ32 and WRITE32 through `raiseFatal`. `stopped` is the
  state the access leaves: the latch set, the report emitted, status FATAL. Safe: the spec says that this is a
  fault. -/
  | unmappedAddress (addr : Word) (dir : Dir) (stopped : State)
  /-- The fatal latch is set, so no request has a step (rules R41, R181). Raised by every request, through
  `serve` and `serveLifecycle`, and by a step with no request. Safe: the spec gives no step. -/
  | halted (addr : Word) (dir : Dir)
  /-- An access before the first RESET or INIT (rules R49, R215, I6). Raised by every request but RESET and
  INIT, through `serve`. Safe: the spec leaves that state unspecified. -/
  | uninitialised
deriving DecidableEq, Repr

/-- The reasons for which the model gives a request no meaning. -/
inductive Refusal where
  /-- An instruction that has no meaning yet, in exec's arm only. Safe. -/
  | notModelled (mnemonic : String)
  /-- A request of reserved kind 110 or 111 (rule R86), from `serveInbound`. Safe. -/
  | reservedKind (kind : BitVec 3)
  /-- IRQ_RAISE or IRQ_CLEAR of an index at or above `N_SRC` (rules R150, R151). Safe. -/
  | sourceOutOfRange (index : Word)
  /-- A sub-word access at the interface (rule R51), from `serveInbound`. Safe. -/
  | subWordAccess (addr : Word) (dir : Dir)
deriving DecidableEq, Repr

/-- The register file at reset: every register at its descriptor's reset value (rule R211). -/
def resetFile : RegFile :=
  RegFile.ofFn fun r => (params.regMap r).reset

/-- The state right after RESET (rules R40, R41, R82, R210), with an empty trace and nothing from the outside
world waiting (log entries 6, 7, 8, 9). -/
def State.reset : State where
  rf := resetFile
  seq := .locked
  halted := none
  initialised := true
  response := { status := .ok, value := some 0x00000000#32, name := "" }
  trace := []
  inbox := []
  irqPending := []
  irqScript := []
  rxAnswers := []
  staAnswers := []
  spiAnswers := []
  drawCount := 0

end Sys2Proof.Machine
end

