-- ==== Sys2Proof/Machine/Ops.lean ====
section
/-! DEFINITION. The named operations on the state: register access, events, responses, backend calls and
their answers, the acceptance of a request, the fatal error (rule R181) and the read-only report (rule R105)
as one operation each, the recompute (rule R152) and the reset body (rule R170). -/

namespace Sys2Proof.Machine

/-- What every request answers. -/
abbrev Result := Host.Outcome State Fault Refusal

/-- `RF[r]` (rule R12). -/
def readReg (r : Reg) (s : State) : Word :=
  s.rf.get r

/-- `RF[r] <- v` (rule R12). -/
def writeReg (r : Reg) (v : Word) (s : State) : State :=
  { s with rf := s.rf.set r v }

/-- `emit e` (rule R13): append an event to the output trace. -/
def emit (e : Event) (s : State) : State :=
  { s with trace := s.trace ++ [e] }

/-- End a request with its response (rule R82). -/
def respond (status : Status) (value : Option Word) (name : String) (s : State) : State :=
  { s with response := { status := status, value := value, name := name } }

/-- The response of the requests that return nothing: OK, value 0 and an empty name (rule R82). -/
def respondDone (s : State) : State :=
  respond .ok (some 0x00000000#32) "" s

/-- One backend call (rules R13, R43): its event, and the interrupt requests the backend issues in response,
which wait until the request that made the call has completed (rule R139). -/
def callBackend (e : Event) (s : State) : State :=
  emit e
    { s with
      irqPending := s.irqPending ++ s.irqScript.headD []
      irqScript := s.irqScript.tail }

/-- The answer of the coming `uart_poll_receive` call: the scripted one, or a free one (I13). -/
def rxAnswer (s : State) : Option Byte :=
  match s.rxAnswers with
  | a :: _ => a
  | [] => Config.freeRx s.drawCount

/-- The answer of the coming `uart_poll_status` call: the scripted one, or a free one (I14). -/
def staAnswer (s : State) : Option Word :=
  match s.staAnswers with
  | a :: _ => a
  | [] => Config.freeSta s.drawCount

/-- The answer of the coming `spi_read_buffer` call: the scripted one, or a free one (I15). -/
def spiAnswer (s : State) : Word :=
  match s.spiAnswers with
  | a :: _ => a
  | [] => Config.freeSpi s.drawCount

/-- Move past the answer of a `uart_poll_receive` call. -/
def dropRxAnswer (s : State) : State :=
  match s.rxAnswers with
  | _ :: as => { s with rxAnswers := as }
  | [] => { s with drawCount := s.drawCount + 1 }

/-- Move past the answer of a `uart_poll_status` call. -/
def dropStaAnswer (s : State) : State :=
  match s.staAnswers with
  | _ :: as => { s with staAnswers := as }
  | [] => { s with drawCount := s.drawCount + 1 }

/-- Move past the answer of a `spi_read_buffer` call. -/
def dropSpiAnswer (s : State) : State :=
  match s.spiAnswers with
  | _ :: as => { s with spiAnswers := as }
  | [] => { s with drawCount := s.drawCount + 1 }

/-- The fault a set fatal latch gives every request (rules R41, R181). Before the first RESET or INIT the latch is
unspecified and stops nothing (rule R49). -/
def haltFault (s : State) : Option Fault :=
  if s.initialised then s.halted.map fun h => .halted h.addr h.dir else none

/-- The fault, if any, with which the block meets a request other than RESET and INIT. -/
def blocked (s : State) : Option Fault :=
  if s.initialised then haltFault s else some .uninitialised

/-- Serve a request other than RESET and INIT: the latch must be clear (rule R181) and the block initialised
(rule R215). -/
def serve (s : State) (k : State → Result) : Result :=
  match blocked s with
  | some f => .fault f
  | none => k s

/-- Serve RESET or INIT: the latch must be clear, and an uninitialised block takes them (rules R170, R171). -/
def serveLifecycle (s : State) (k : State → Result) : Result :=
  match haltFault s with
  | some f => .fault f
  | none => k s

/-- `refuse(reason)`: the model gives the request no meaning (rule R13). -/
def refuse (reason : Refusal) (_s : State) : Result :=
  .refused reason

/-- The value of a FATAL response: a READ32 returns none, not 0 (rule R181); a WRITE32's value is 0 (rule R82). -/
def fatalValue : Dir → Option Word
  | .read => none
  | .write => some 0x00000000#32

/-- The state an UnmappedAddress leaves: the report emitted, the latch set, the response FATAL, and nothing else
changed (rule R181). The empty name of the report is the spec's (rule R182). The empty name of the response is the
model's own: DESIGN CHOICE, safe, since no request reads it; rules R82 and R181 give that name nowhere (log entry
16). -/
def fatalState (addr : Word) (dir : Dir) (s : State) : State :=
  respond .fatal (fatalValue dir) ""
    { emit (.report .unmappedAddress addr dir "") s with halted := some { addr := addr, dir := dir } }

/-- `raise Fatal(UnmappedAddress, addr, dir)`: the machine stops (rule R181). -/
def raiseFatal (addr : Word) (dir : Dir) (s : State) : Result :=
  .fault (.unmappedAddress addr dir (fatalState addr dir s))

/-- `report ReadOnlyViolation`: one diagnostic event and the response RO_VIOLATION; the write is discarded (rules
R105, R182). -/
def reportReadOnly (addr : Word) (name : String) (s : State) : State :=
  respond .roViolation (some 0x00000000#32) name
    (emit (.report .readOnlyViolation addr .write name) s)

/-- `recompute_status()` (rule R152): store the arbitration result in INTSTAT and notify the CPU core. -/
def recomputeStatus (p : Params) (s : State) : State :=
  emit (.notifyInterrupt (arbitrate p s.rf).level (arbitrate p s.rf).vector)
    (writeReg .intstat (packStatus (arbitrate p s.rf)) s)

/-- `reset_body()` (rule R170): the register file, then the sequencer, then the backends, then the
recompute. -/
def resetBody (p : Params) (s : State) : State :=
  recomputeStatus p
    (callBackend .deviceSoftReset
      { s with
        rf := RegFile.ofFn fun r => (p.regMap r).reset
        seq := .locked })

/-- The numeric code of an error condition (rule R180). -/
def errorNumber : ErrorCode → Nat
  | .unmappedAddress => 1
  | .readOnlyViolation => 2
  | .invalidSysKeySequence => 3
  | .backendFailure => 4

end Sys2Proof.Machine
end

