-- ==== Sys2Proof/Machine/Hooks.lean ====
section
/-! DEFINITION. The side-effect dispatcher and the system-key sequencer (file 41_dispatch.md): what a READ32
runs first and what a permitted WRITE32 runs last. -/

namespace Sys2Proof.Machine

/-- The UART receive hook (rule R124): poll, store a received byte zero-extended, return the stored value. -/
def uartRxHook (u : Fin 6) (s : State) : Word × State :=
  let polled := dropRxAnswer (callBackend (.uartPollReceive u (rxAnswer s)) s)
  let s' :=
    match rxAnswer s with
    | some b => writeReg (.urxreg u) (receivedWord b) polled
    | none => polled
  (readReg (.urxreg u) s', s')

/-- The UART status hook (rule R125): poll, let an answered word replace the register, return the stored
value. -/
def uartStaHook (u : Fin 6) (s : State) : Word × State :=
  let polled := dropStaAnswer (callBackend (.uartPollStatus u (staAnswer s)) s)
  let s' :=
    match staAnswer s with
    | some w => writeReg (.usta u) w polled
    | none => polled
  (readReg (.usta u) s', s')

/-- The SPI buffer read hook (rule R127): return the backend's word, unstored. -/
def spiBufRdHook (c : Fin 4) (s : State) : Word × State :=
  (spiAnswer s, dropSpiAnswer (callBackend (.spiReadBuffer c (spiAnswer s)) s))

/-- `read_hook(r)` (rule R128): the value a READ32 of `r` yields, and the state it leaves. -/
def readHook (p : Params) (r : Reg) (s : State) : Word × State :=
  match (p.regMap r).rhook with
  | .none => (readReg r s, s)
  | .uartRx u => uartRxHook u s
  | .uartSta u => uartStaHook u s
  | .spiBufRd c => spiBufRdHook c s

/-- The first system key (rule R130). -/
def firstKey : Word := 0xAA996655#32

/-- The second system key (rule R130). -/
def secondKey : Word := 0x556699AA#32

/-- The sequencer's transition on a SYSKEY write of `d` (rule R130). -/
def nextSeq (seq : Sequencer) (d : Word) : Sequencer :=
  match seq with
  | .locked => if d = firstKey then .stage1 else .locked
  | .stage1 => if d = secondKey then .unlocked else .locked
  | .unlocked => .locked

/-- The SYSKEY hook (rule R130): only the sequencer changes. -/
def syskeyHook (d : Word) (s : State) : State :=
  { s with seq := nextSeq s.seq d }

/-- `soft_reset_action()` (rule R172). -/
def softReset (p : Params) (s : State) : State :=
  resetBody p s

/-- The RSWRST hook (rules R133, R134): the soft reset fires in Unlocked when the stored bit 0 is 1. -/
def rswrstHook (p : Params) (s : State) : State :=
  if s.seq = .unlocked ∧ (readReg .rswrst s).getLsbD 0 = true then softReset p s else s

/-- `write_hook(r, k, d)` (rule R129), after the storage update. No hook reads the view. -/
def writeHook (p : Params) (r : Reg) (d : Word) (s : State) : State :=
  match (p.regMap r).whook with
  | .none => s
  | .irqRecompute => recomputeStatus p s
  | .syskey => syskeyHook d s
  | .rswrst => rswrstHook p s
  | .gpioLat b => callBackend (.gpioLatchChanged b (readReg (.lat b) s)) s
  | .uartTx u => callBackend (.uartTransmit u (transmitByte d)) s
  | .uartMode u => callBackend (.uartApplyMode u) s
  | .spiCon c => callBackend (.spiConfigure c) s
  | .spiBufWr c => callBackend (.spiWriteBuffer c d) s

end Sys2Proof.Machine
end

