-- ==== Sys2Proof/Machine/Bus.lean ====
section
/-! DEFINITION. The bus requests READ32 and WRITE32 in its four views (file 40_bus_access.md). -/

namespace Sys2Proof.Machine

/-- The read pipeline (rule R103). -/
def readPipeline (p : Params) (addr : Word) (s : State) : Result :=
  match decodeAddr p addr with
  | none => raiseFatal addr .read s
  | some (r, k) =>
    .next (respond .ok (some (readHook p r s).1) (symbolicName p r k) (readHook p r s).2)

/-- The storage update of a permitted write (rules R100, R101, R104, R106). -/
def storeWrite (p : Params) (r : Reg) (k : View) (d : Word) (s : State) : State :=
  if (p.regMap r).stored then
    writeReg r (mergeWrite (p.regMap r).roMask k (readReg r s) d) s
  else s

/-- A write to a decoded register: the read-only check, then the storage update, then the write hook (rules R104,
R218). -/
def writeDecoded (p : Params) (addr : Word) (r : Reg) (k : View) (d : Word) (s : State) : State :=
  if (p.regMap r).ro then reportReadOnly addr (symbolicName p r k) s
  else
    respond .ok (some 0x00000000#32) (symbolicName p r k)
      (writeHook p r d (storeWrite p r k d s))

/-- The write pipeline (rule R104). -/
def writePipeline (p : Params) (addr d : Word) (s : State) : Result :=
  match decodeAddr p addr with
  | none => raiseFatal addr .write s
  | some (r, k) => .next (writeDecoded p addr r k d s)

/-- READ32 (rule R110). -/
def execRead32 (addr : Word) (s : State) : Result :=
  serve s (readPipeline params addr)

/-- WRITE32.ASSIGN (rule R111). -/
def execWriteAssign (addr data : Word) (s : State) : Result :=
  serve s (writePipeline params addr data)

/-- WRITE32.CLR (rule R112). -/
def execWriteClr (addr data : Word) (s : State) : Result :=
  serve s (writePipeline params addr data)

/-- WRITE32.SET (rule R113). -/
def execWriteSet (addr data : Word) (s : State) : Result :=
  serve s (writePipeline params addr data)

/-- WRITE32.INV (rule R114). -/
def execWriteInv (addr data : Word) (s : State) : Result :=
  serve s (writePipeline params addr data)

end Sys2Proof.Machine
end

