-- ==== Sys2Proof/Machine/Interrupts.lean ====
section
/-! DEFINITION. IRQ_RAISE and IRQ_CLEAR (file 42_interrupts.md). -/

namespace Sys2Proof.Machine

/-- Set the flag of source `i` if it is clear, and then recompute (rule R150). -/
def raiseFlag (p : Params) (i : Nat) (s : State) : State :=
  if flagSet s.rf i then s
  else recomputeStatus p (writeReg (.ifs (flagReg i)) (raisedWord s.rf i) s)

/-- Clear the flag of source `i` if it is set, and then recompute (rule R151). -/
def clearFlag (p : Params) (i : Nat) (s : State) : State :=
  if flagSet s.rf i then
    recomputeStatus p (writeReg (.ifs (flagReg i)) (clearedWord s.rf i) s)
  else s

/-- IRQ_RAISE over any parameters (rule R150): an index at or above `N_SRC` is refused (decision D29). -/
def irqRaise (p : Params) (index : Word) (s : State) : Result :=
  if p.nSrc ≤ index.toNat then refuse (.sourceOutOfRange index) s
  else .next (respondDone (raiseFlag p index.toNat s))

/-- IRQ_CLEAR over any parameters (rule R151): an index at or above `N_SRC` is refused (decision D29). -/
def irqClear (p : Params) (index : Word) (s : State) : Result :=
  if p.nSrc ≤ index.toNat then refuse (.sourceOutOfRange index) s
  else .next (respondDone (clearFlag p index.toNat s))

/-- IRQ_RAISE (rule R150). -/
def execIrqRaise (index : Word) (s : State) : Result :=
  serve s (irqRaise params index)

/-- IRQ_CLEAR (rule R151). -/
def execIrqClear (index : Word) (s : State) : Result :=
  serve s (irqClear params index)

end Sys2Proof.Machine
end

