-- ==== Sys2Proof/Machine/Lifecycle.lean ====
section
/-! DEFINITION. RESET and INIT (file 43_lifecycle.md). -/

namespace Sys2Proof.Machine

/-- What RESET and INIT do (rules R170, R171, R210): the reset body, on a block that is initialised and not halted
from then on. -/
def lifecycleReset (p : Params) (s : State) : State :=
  respondDone (resetBody p { s with halted := none, initialised := true })

/-- The answer of RESET and INIT on a block that takes them. -/
def lifecycleResult (p : Params) (s : State) : Result :=
  .next (lifecycleReset p s)

/-- RESET (rule R170). -/
def execReset (s : State) : Result :=
  serveLifecycle s (lifecycleResult params)

/-- INIT (rule R171): the handle is neither stored nor interpreted. -/
def execInit (_handle : Word) (s : State) : Result :=
  serveLifecycle s (lifecycleResult params)

end Sys2Proof.Machine
end

