-- ==== Sys2Proof/Machine/Dispatch.lean ====
section
/-! DEFINITION. One arm per instruction: the call of its meaning. -/

namespace Sys2Proof.Machine

def exec (i : Instr) (s : State) : Host.Outcome State Fault Refusal :=
  match i with
  | .read32 addr => Sys2Proof.Machine.execRead32 addr s
  | .writeAssign addr data => Sys2Proof.Machine.execWriteAssign addr data s
  | .writeClr addr data => Sys2Proof.Machine.execWriteClr addr data s
  | .writeSet addr data => Sys2Proof.Machine.execWriteSet addr data s
  | .writeInv addr data => Sys2Proof.Machine.execWriteInv addr data s
  | .irqRaise index => Sys2Proof.Machine.execIrqRaise index s
  | .irqClear index => Sys2Proof.Machine.execIrqClear index s
  | .reset => Sys2Proof.Machine.execReset s
  | .init handle => Sys2Proof.Machine.execInit handle s

end Sys2Proof.Machine
end

