-- ==== Sys2Proof/Machine/Fetch.lean ====
section
/-! DEFINITION. Where the next request comes from (rules R69, R139) and how the inbound interface serves what
arrives (rules R51, R86, R87). -/

namespace Sys2Proof.Machine

/-- What is served next, and the state without it: a backend's waiting interrupt request before anything else (rule
R139), else the next arrival (rule R69). -/
def nextInbound (s : State) : Option (Inbound × State) :=
  match s.irqPending with
  | q :: qs => some (.request q.toRequest, { s with irqPending := qs })
  | [] =>
    match s.inbox with
    | x :: xs => some (x, { s with inbox := xs })
    | [] => none

/-- Serve a request that decodes to no instruction (rules R86, R87). -/
def serveReject (e : Reject) (s : State) : Result :=
  match e with
  | .unaligned addr dir => serve s (raiseFatal addr dir)
  | .reservedKind kind => serve s (refuse (.reservedKind kind))

/-- Serve one request: decode it and execute the instruction. -/
def serveRequest (q : Request) (s : State) : Result :=
  match decode q with
  | .ok i => exec i s
  | .error e => serveReject e s

/-- Serve what arrived at the inbound interface; a sub-word access is refused there (rule R51). -/
def serveInbound (x : Inbound) (s : State) : Result :=
  match x with
  | .request q => serveRequest q s
  | .subWordAccess addr dir => serve s (refuse (.subWordAccess addr dir))

/-- A step with nothing to serve: nothing changes, and a halted block still has no step (log entry 6). -/
def idle (s : State) : Result :=
  match haltFault s with
  | some f => .fault f
  | none => .next s

/-- One step: one request, served whole (rule R57). -/
def stepOnce (s : State) : Result :=
  match nextInbound s with
  | some (x, s') => serveInbound x s'
  | none => idle s

/-- `s` with `q` as the request the next step serves. -/
def placeRequest (q : Request) (s : State) : State :=
  { s with irqPending := [], inbox := .request q :: s.inbox }

end Sys2Proof.Machine
end

