-- ==== Sys2Proof/Machine/Step.lean ====
section
/-! DEFINITION. The step of the machine, and how the host places an instruction where the step fetches it. -/

namespace Sys2Proof.Machine

/-- One step of CSRBLK: one request is one atomic step (rules R57, R69). -/
def step (s : State) : Host.Outcome State Fault Refusal :=
  stepOnce s

/-- `s` with the request whose bits are `w`, numbered as spec/opcode_table.json numbers them, as the one the
next step serves (log entry 10). -/
def State.withFetchWord (s : State) (nbits w : Nat) : State :=
  placeRequest (Request.ofTableBits (w % 2 ^ nbits)) s

end Sys2Proof.Machine
end

