-- ==== Sys2Proof/Machine/Outputs.lean ====
section
/-! DEFINITION. What the outside reads off the state: the two interrupt outputs (rules R42, R184) and, from the
output trace, the SD-card select line of the GPIO collaborator's contract (rule R121). -/

namespace Sys2Proof.Machine

/-- The output `irq_level[2:0]`, INTSTAT[10:8] (rule R42). -/
def irqLevel (s : State) : Level :=
  (s.rf.get .intstat).extractLsb' 8 3

/-- The output `irq_vector[7:0]`, INTSTAT[7:0] (rule R42). -/
def irqVector (s : State) : Vec :=
  (s.rf.get .intstat).extractLsb' 0 8

/-- What one event does to the SD-card select line: a latch call of the bank `SD_CS_BANK` asserts it when bit
`SD_CS_BIT` of the latch is 0, and no other event touches it (rule R121). -/
def sdSelectAfter (selected : Option Bool) : Event → Option Bool
  | .gpioLatchChanged bank value =>
    if bank = Config.sdCsBank then some (!value.getLsbD Config.sdCsBit.val) else selected
  | _ => selected

/-- The SD-card select line the trace has driven so far; none before the first latch call of its bank, since the
spec gives the collaborator's line no initial value. -/
def sdSelected (trace : List Event) : Option Bool :=
  trace.foldl sdSelectAfter none

end Sys2Proof.Machine
end

