-- ==== Sys2Proof/Safety.lean ====
section
/-! DEFINITION. The terms in which claims speak: a block that takes requests, the addresses firmware may use,
and the invariants every step keeps. -/

namespace Sys2Proof.Machine

/-- The block takes requests: it has had its RESET or INIT and is not halted (rules R41, R215). -/
def Running (s : State) : Prop :=
  s.initialised = true ∧ s.halted = none

/-- The address of a view of a register in REF: `base`, `base+4`, `base+8` or `base+12` (rule R23). -/
def viewAddr (r : Reg) (k : View) : Word :=
  (params.regMap r).base + viewOffset k

/-- The view exists: every register has its assign view, and an aliased one has all four (rules R23, R24). -/
def HasView (r : Reg) (k : View) : Prop :=
  k = .assign ∨ (params.regMap r).aliased = true

/-- The WRITE32 instruction of a view (rules R111 to R114). -/
def writeInstr (k : View) (addr data : Word) : Instr :=
  match k with
  | .assign => .writeAssign addr data
  | .clear => .writeClr addr data
  | .set => .writeSet addr data
  | .invert => .writeInv addr data

/-- The instruction is a WRITE32 to `addr`, through whichever view. -/
def WritesTo (i : Instr) (addr : Word) : Prop :=
  ∃ k d, i = writeInstr k addr d

/-- The response of a bus request that ends normally (rule R82). -/
def okResponse (value : Word) (r : Reg) (k : View) : Response where
  status := .ok
  value := some value
  name := symbolicName params r k

/-- The response of the requests that return nothing (rule R82). -/
def doneResponse : Response where
  status := .ok
  value := some 0x00000000#32
  name := ""

/-- An address firmware may access: one that decodes to a register (rule R216, third obligation). -/
def Mapped (p : Params) (addr : Word) : Prop :=
  (decodeAddr p addr).isSome = true

/-- A source that the arbiter counts: pending, enabled and of non-zero priority (rules R152, R155). -/
def Asserted (rf : RegFile) (i : Nat) : Prop :=
  flagSet rf i = true ∧ enableSet rf i = true ∧ prio rf i ≠ 0#3

/-- INTSTAT is the arbitration result over the current IFS, IEC and IPC (rule R39). -/
def StatusConsistent (p : Params) (s : State) : Prop :=
  s.rf.get .intstat = packStatus (arbitrate p s.rf)

/-- The registers no bus write changes hold their reset values: SYSKEY, UxTXREG and SPIxBUF are not stored, and
DEVID is read-only (rules R106, R123, R127, R131, R140). -/
def ForwardOnlyAtReset (s : State) : Prop :=
  s.rf.get .syskey = 0#32 ∧ s.rf.get .devid = Config.devidReset ∧
    (∀ u, s.rf.get (.utxreg u) = 0#32) ∧ (∀ c, s.rf.get (.spibuf c) = 0#32)

/-- Every receive register holds a zero-extended byte (rules R56, R124). -/
def ReceiveRegsAreBytes (s : State) : Prop :=
  ∀ u, (s.rf.get (.urxreg u)).extractLsb' 8 24 = 0#24

/-- The read-only bits of every SPIxSTAT read 0: only bit 6 was ever writable (rules R101, R136). -/
def SpiStatMasked (s : State) : Prop :=
  ∀ c, s.rf.get (.spistat c) &&& spistatRoMask = 0#32

/-- The invariant of the machine. -/
def Inv (s : State) : Prop :=
  Running s ∧ StatusConsistent params s ∧ ForwardOnlyAtReset s ∧ ReceiveRegsAreBytes s ∧ SpiStatMasked s

end Sys2Proof.Machine
end

