-- ==== Sys2Proof/Certificates/Slice0/Obligations.lean ====
section
/-! DEFINITION. The obligations: what the spec's rules say the machine does, each a statement about Decode, exec,
step and the shared operations. Statements over `params` are about the reference instance REF (log entries 1, 2, 4
and 5); a mark 'the spec marks as its own' names the spec's decisions (file 92_eei_decisions.md) and derivations
that a statement rests on. -/

open Sys2Proof Sys2Proof.Machine


/-- The ten request words of section 6 of the test vectors that name an instruction, written out as the 67-bit
record {kind, addr, data}, decode to the instruction the table names, and so does irq.raise 9 with the ignored
addr 0xFFFFFFFF; a request of the reserved kind 110 and the table's unaligned write are rejected by name. R86
refuses the reserved kind by the name ReservedKind and R87 makes the unaligned write Unmapped: that decode is
where both are turned away, with the reject names reservedKind and unaligned, is the model's (log entries 13
and 17). The spec marks as its own: R80: decision D19; R85: decision D19; R86: decision D19; R87: derived.
(30_encoding.md R80, R85, R86, R87; 95_test_vectors.md section 6; log entry 13 (the refusals: DEDUCED); log
entry 17 (where and under what name the decoder rejects: the model's choice).) -/
def Obligations.SpecWordsDecode : Prop :=
  decode (Request.ofBits (0b000#3 ++ 0x1F810020#32 ++ 0x00000000#32)) = .ok (.read32 0x1F810020#32) ∧
  decode (Request.ofBits (0b000#3 ++ 0x1F81004C#32 ++ 0x00000000#32)) = .ok (.read32 0x1F81004C#32) ∧
  decode (Request.ofBits (0b001#3 ++ 0x1F8100C0#32 ++ 0x00000001#32)) = .ok (.writeAssign 0x1F8100C0#32 1#32) ∧
  decode (Request.ofBits (0b001#3 ++ 0x1F8100C4#32 ++ 0x00000001#32)) = .ok (.writeClr 0x1F8100C4#32 1#32) ∧
  decode (Request.ofBits (0b001#3 ++ 0x1F8100C8#32 ++ 0x00000001#32)) = .ok (.writeSet 0x1F8100C8#32 1#32) ∧
  decode (Request.ofBits (0b001#3 ++ 0x1F8100CC#32 ++ 0x00000001#32)) = .ok (.writeInv 0x1F8100CC#32 1#32) ∧
  decode (Request.ofBits (0b010#3 ++ 0x00000000#32 ++ 0x00000009#32)) = .ok (.irqRaise 9#32) ∧
  decode (Request.ofBits (0b010#3 ++ 0xFFFFFFFF#32 ++ 0x00000009#32)) = .ok (.irqRaise 9#32) ∧
  decode (Request.ofBits (0b011#3 ++ 0x00000000#32 ++ 0x00000007#32)) = .ok (.irqClear 7#32) ∧
  decode (Request.ofBits (0b100#3 ++ 0x00000000#32 ++ 0x00000000#32)) = .ok .reset ∧
  decode (Request.ofBits (0b101#3 ++ 0x00000000#32 ++ 0x00000000#32)) = .ok (.init 0#32) ∧
  decode (Request.ofBits (0b001#3 ++ 0x1F8100C2#32 ++ 0x00000000#32)) = .error (.unaligned 0x1F8100C2#32 .write) ∧
  decode (Request.ofBits (0b110#3 ++ 0x00000000#32 ++ 0x00000000#32)) = .error (.reservedKind 0b110#3)

/-- For every well-formed instruction i, with every operand at every value its encoding admits, packing encode i
into the 67-bit record, unpacking it and decoding gives i. The spec marks as its own: R80: decision D19; R81:
decision D19; R83: derived; R85: decision D19. (30_encoding.md R80, R81, R83, R85.) -/
def Obligations.DecodeEncodeAgree : Prop :=
  ∀ i : Instr, i.wf = true → decode (Request.ofBits (encode i).toBits) = .ok i

/-- If a request q decodes to i, then i is well formed, encode i has q's kind, it has q's address where i is a bus
request and q's data where i is not READ32 or RESET, and it decodes to i again. The spec marks as its own:
R81: decision D19; R83: derived; R85: decision D19. (30_encoding.md R81, R83, R85.) -/
def Obligations.DecodeIsSound : Prop :=
  ∀ (q : Request) (i : Instr), decode q = .ok i →
    i.wf = true ∧ (encode i).kind = q.kind ∧ decode (encode i) = .ok i ∧
      (q.kind = 0b000#3 ∨ q.kind = 0b001#3 → (encode i).addr = q.addr) ∧
      (q.kind ≠ 0b000#3 ∧ q.kind ≠ 0b100#3 → (encode i).data = q.data)

/-- Two requests whose kind and addr[3:0] agree decode to the same instruction but for operands, or are both
rejected; and every 7-bit key belongs to at most one row of the opcode map. The spec marks as its own: R85:
decision D19; R89: derived. (30_encoding.md R85, R89.) -/
def Obligations.KeyAloneSelectsInstruction : Prop :=
  (∀ q q' : Request, q.kind = q'.kind → q.addr.extractLsb' 0 4 = q'.addr.extractLsb' 0 4 →
    (decode q).toOption.map opcodeOf = (decode q').toOption.map opcodeOf) ∧
  (∀ key : BitVec 7, (opTable.filter fun row => row.accepts key).length ≤ 1)

/-- READ32 ignores data; WRITE32 uses addr and data; IRQ_RAISE and IRQ_CLEAR take the index from data and ignore
addr; RESET ignores both; INIT takes its handle from data, and what it does is the same for every handle. The
spec marks as its own: R81: decision D19. (30_encoding.md R81.) -/
def Obligations.IgnoredFieldsHaveNoEffect : Prop :=
  (∀ a d d' : Word, decode ⟨0b000#3, a, d⟩ = decode ⟨0b000#3, a, d'⟩) ∧
  (∀ a d : Word, a.extractLsb' 0 2 = 0#2 →
    decode ⟨0b000#3, a, d⟩ = .ok (.read32 a) ∧ ∃ k, decode ⟨0b001#3, a, d⟩ = .ok (writeInstr k a d)) ∧
  (∀ a d : Word, decode ⟨0b010#3, a, d⟩ = .ok (.irqRaise d)) ∧
  (∀ a d : Word, decode ⟨0b011#3, a, d⟩ = .ok (.irqClear d)) ∧
  (∀ a d : Word, decode ⟨0b100#3, a, d⟩ = .ok .reset) ∧
  (∀ a d : Word, decode ⟨0b101#3, a, d⟩ = .ok (.init d)) ∧
  (∀ (h h' : Word) (s : State), exec (.init h) s = exec (.init h') s)

/-- A step that serves a request of kind 110 or 111 on a running block answers the refusal reservedKind, and one
that serves a sub-word access, read or write, answers the refusal subWordAccess: no next state, so no state
change and no event. The queue they stand in and the placing of the request are the model's choice (log
entries 6 and 10). The spec marks as its own: R86: decision D19; R51: decision D11. (30_encoding.md R86;
20_memory.md R51; log entry 6 (the inbox and the idle step: the model's choice); log entry 10 (the placing of
a request: the model's choice); log entry 13 (the refusals: DEDUCED).) -/
def Obligations.ReservedKindIsRefused : Prop :=
  (∀ (s : State) (a d : Word) (k : BitVec 3), Running s → k = 0b110#3 ∨ k = 0b111#3 →
    step (placeRequest ⟨k, a, d⟩ s) = .refused (.reservedKind k)) ∧
  (∀ (s : State) (a : Word) (dir : Dir) (xs : List Inbound), Running s → s.irqPending = [] →
    s.inbox = .subWordAccess a dir :: xs → step s = .refused (.subWordAccess a dir))

/-- With no backend interrupt waiting and a request at the head of the inbox that decodes to i, step is exec of i
on the state without that request; with a backend's raise or clear waiting, step is IRQ_RAISE or IRQ_CLEAR on
the state without it, whatever the inbox holds; with nothing to serve, a block that is not halted stays as it
is (the model's choice, log entry 6). That a backend's request goes before RESET and INIT too is the model's
choice (log entry 7). The spec marks as its own: R69: derived; R139: decision D27. (20_memory.md R57, R69;
41_dispatch.md R139; log entry 6 and 7 (the model's queues).) -/
def Obligations.StepRunsDecodedRequest : Prop :=
  (∀ (s : State) (q : Request) (xs : List Inbound) (i : Instr), s.irqPending = [] → s.inbox = .request q :: xs →
    decode q = .ok i → step s = exec i { s with inbox := xs }) ∧
  (∀ (s : State) (x : Word) (qs : List BackendIrq), s.irqPending = .raise x :: qs →
    step s = exec (.irqRaise x) { s with irqPending := qs }) ∧
  (∀ (s : State) (x : Word) (qs : List BackendIrq), s.irqPending = .clear x :: qs →
    step s = exec (.irqClear x) { s with irqPending := qs }) ∧
  (∀ s : State, s.irqPending = [] → s.inbox = [] → s.halted = none → step s = .next s)

/-- If decodeTableWord reads instruction i from a word, then step of the state with that word placed is exec of i
on that state with no backend interrupt waiting. The spec marks as its own: R85: decision D19. (30_encoding.md
R85; log entry 10 (the host's placing of a request); log entry 7 (the backends' interrupt script: the model's
choice).) -/
def Obligations.PlacedWordRuns : Prop :=
  ∀ (s : State) (nbits w : Nat) (i : Instr), decodeTableWord nbits w = some i →
    step (s.withFetchWord nbits w) = exec i { s with irqPending := [] }

/-- For every well-formed parameter set, a decoded address's view is given by its bits [3:2] (00 assign, 01 clear,
10 set, 11 invert) and its register's base is addr & 0xFFFFFFF0. The spec marks as its own: R54: derived.
(20_memory.md R54.) -/
def Obligations.DecodedViewIsAddressBits : Prop :=
  ∀ (p : Params) (a : Word) (r : Reg) (k : View), Params.wf p = true → decodeAddr p a = some (r, k) →
    (k = .assign ↔ a.extractLsb' 2 2 = 0b00#2) ∧ (k = .clear ↔ a.extractLsb' 2 2 = 0b01#2) ∧
    (k = .set ↔ a.extractLsb' 2 2 = 0b10#2) ∧ (k = .invert ↔ a.extractLsb' 2 2 = 0b11#2) ∧
    (p.regMap r).base = a &&& 0xFFFFFFF0#32

/-- For every well-formed parameter set, the addresses base, base+4, base+8 and base+12 of an aliased register
decode to that register through assign, clear, set and invert; the base of every register decodes to it; and
two registers with a common decoded address are the same register. The spec marks as its own: R24: decision
D16; R52: decision D36, from general knowledge; R53: decision D13. (10_state.md R23, R24; 20_memory.md R52,
R53.) -/
def Obligations.AliasGroupResolvesToOneRegister : Prop :=
  ∀ p : Params, Params.wf p = true →
    (∀ (r : Reg), (p.regMap r).aliased = true →
      decodeAddr p (p.regMap r).base = some (r, .assign) ∧
      decodeAddr p ((p.regMap r).base + 4#32) = some (r, .clear) ∧
      decodeAddr p ((p.regMap r).base + 8#32) = some (r, .set) ∧
      decodeAddr p ((p.regMap r).base + 12#32) = some (r, .invert)) ∧
    (∀ r : Reg, decodeAddr p (p.regMap r).base = some (r, .assign)) ∧
    (∀ (r q : Reg) (a : Word) (k l : View), viewAt (p.regMap r) a = some k → viewAt (p.regMap q) a = some l →
      r = q ∧ k = l)

/-- For every well-formed parameter set, an address with bits [1:0] not 00 decodes to no register, nor do base+4,
base+8 and base+12 of a register with aliased = false (no other register can declare them, its base being a
multiple of 16); and a running block that is asked to read or write an unaligned address stops with
UnmappedAddress, leaving the latch set, one report, the response FATAL and every register as before. The empty
name of the FATAL response (log entry 16) and the emptied irqPending, which is what placeRequest does (log
entry 10), are the model's choice. The spec marks as its own: R55: derived. (20_memory.md R55; log entry 10
(the placing of a request: the model's choice); log entry 16 (the response record: the model's choice).) -/
def Obligations.UnalignedAndUndeclaredAreUnmapped : Prop :=
  (∀ (p : Params) (a : Word), Params.wf p = true → a.extractLsb' 0 2 ≠ 0b00#2 → decodeAddr p a = none) ∧
  (∀ (p : Params) (r : Reg), Params.wf p = true → (p.regMap r).aliased = false →
    decodeAddr p ((p.regMap r).base + 4#32) = none ∧ decodeAddr p ((p.regMap r).base + 8#32) = none ∧
    decodeAddr p ((p.regMap r).base + 12#32) = none) ∧
  (∀ (s : State) (a d : Word), Running s → a.extractLsb' 0 2 ≠ 0b00#2 →
    step (placeRequest ⟨0b000#3, a, d⟩ s) = .fault (.unmappedAddress a .read
      { s with
        irqPending := []
        halted := some { addr := a, dir := .read }
        trace := s.trace ++ [.report .unmappedAddress a .read ""]
        response := { status := .fatal, value := none, name := "" } }) ∧
    step (placeRequest ⟨0b001#3, a, d⟩ s) = .fault (.unmappedAddress a .write
      { s with
        irqPending := []
        halted := some { addr := a, dir := .write }
        trace := s.trace ++ [.report .unmappedAddress a .write ""]
        response := { status := .fatal, value := some 0#32, name := "" } }))

/-- On a running block, READ32 of any view of a register with no read hook answers a next state that differs only
in the response, which is OK with RF[r] and the view's name. The spec marks as its own: R103: decision D15;
R58: derived. (40_bus_access.md R103, R110; 20_memory.md R58.) -/
def Obligations.ReadPlainRegister : Prop :=
  ∀ (s : State) (r : Reg) (k : View), Running s → HasView r k → (params.regMap r).rhook = .none →
    exec (.read32 (viewAddr r k)) s = .next { s with response := okResponse (s.rf.get r) r k }

/-- On a running block, READ32 of any view of UxRXREG makes one uart_poll_receive call; an answered byte is zero-
extended into the register and returned; none (not ready, or a backend failure) leaves the register and
returns its value. The answer is used up, so the next poll draws the next one. Every other register, the
sequencer and the latch are unchanged. How the model holds what the outside will do (irqPending, irqScript,
inbox, rxAnswer, rxAnswers, staAnswers, spiAnswers, drawCount) is its own choice and not the spec's. The spec
marks as its own: R124: decision D26; R138: decision D22; R58: derived. (41_dispatch.md R124, R138;
20_memory.md R58; log entry 6 (the inbox and the idle step: the model's choice); log entry 7 (the backends'
interrupt script: the model's choice); log entry 8 (the backends' answers: the model's choice).) -/
def Obligations.ReadUartReceive : Prop :=
  ∀ (s : State) (u : Fin 6) (k : View), Running s →
    ∃ t, exec (.read32 (viewAddr (.urxreg u) k)) s = .next t ∧
      t.trace = s.trace ++ [.uartPollReceive u (rxAnswer s)] ∧
      (∀ b, rxAnswer s = some b →
        t.rf = s.rf.set (.urxreg u) (b.setWidth 32) ∧ t.response = okResponse (b.setWidth 32) (.urxreg u) k) ∧
      (rxAnswer s = none → t.rf = s.rf ∧ t.response = okResponse (s.rf.get (.urxreg u)) (.urxreg u) k) ∧
      t.seq = s.seq ∧ t.halted = none ∧ t.initialised = true ∧ t.inbox = s.inbox ∧
      t.irqPending = s.irqPending ++ s.irqScript.headD [] ∧ t.irqScript = s.irqScript.tail ∧
      t.rxAnswers = s.rxAnswers.tail ∧
      t.drawCount = (if s.rxAnswers = [] then s.drawCount + 1 else s.drawCount) ∧
      t.staAnswers = s.staAnswers ∧ t.spiAnswers = s.spiAnswers

/-- On a running block, READ32 of any view of UxSTA makes one uart_poll_status call; an answered word replaces the
whole register and is returned; none leaves the register and returns its value. The answer is used up, so the
next poll draws the next one. Every other register, the sequencer and the latch are unchanged. How the model
holds what the outside will do (irqPending, irqScript, inbox, staAnswer, rxAnswers, staAnswers, spiAnswers,
drawCount) is its own choice and not the spec's. The spec marks as its own: R125: decision D22; R138: decision
D22; R58: derived. (41_dispatch.md R125, R138; 20_memory.md R58; log entry 6 (the inbox and the idle step: the
model's choice); log entry 7 (the backends' interrupt script: the model's choice); log entry 8 (the backends'
answers: the model's choice).) -/
def Obligations.ReadUartStatus : Prop :=
  ∀ (s : State) (u : Fin 6) (k : View), Running s →
    ∃ t, exec (.read32 (viewAddr (.usta u) k)) s = .next t ∧
      t.trace = s.trace ++ [.uartPollStatus u (staAnswer s)] ∧
      (∀ w, staAnswer s = some w → t.rf = s.rf.set (.usta u) w ∧ t.response = okResponse w (.usta u) k) ∧
      (staAnswer s = none → t.rf = s.rf ∧ t.response = okResponse (s.rf.get (.usta u)) (.usta u) k) ∧
      t.seq = s.seq ∧ t.halted = none ∧ t.initialised = true ∧ t.inbox = s.inbox ∧
      t.irqPending = s.irqPending ++ s.irqScript.headD [] ∧ t.irqScript = s.irqScript.tail ∧
      t.staAnswers = s.staAnswers.tail ∧
      t.drawCount = (if s.staAnswers = [] then s.drawCount + 1 else s.drawCount) ∧
      t.rxAnswers = s.rxAnswers ∧ t.spiAnswers = s.spiAnswers

/-- On a running block, READ32 of SPIxBUF makes one spi_read_buffer call and returns the backend's word, which is
then used up; WRITE32 of d makes one spi_write_buffer call with d; both leave every register, the sequencer
and the latch as they were. How the model holds what the outside will do (irqPending, irqScript, inbox,
spiAnswer, rxAnswers, staAnswers, spiAnswers, drawCount) is its own choice and not the spec's. The spec marks
as its own: R127: decision D21; R106: derived; R58: derived. (41_dispatch.md R127; 40_bus_access.md R106;
20_memory.md R58; log entry 6 (the inbox and the idle step: the model's choice); log entry 7 (the backends'
interrupt script: the model's choice); log entry 8 (the backends' answers: the model's choice).) -/
def Obligations.SpiBufferForwards : Prop :=
  ∀ (s : State) (c : Fin 4), Running s →
    (∃ t, exec (.read32 (viewAddr (.spibuf c) .assign)) s = .next t ∧ t.rf = s.rf ∧
      t.trace = s.trace ++ [.spiReadBuffer c (spiAnswer s)] ∧
      t.response = okResponse (spiAnswer s) (.spibuf c) .assign ∧
      t.seq = s.seq ∧ t.halted = none ∧ t.initialised = true ∧ t.inbox = s.inbox ∧
      t.irqPending = s.irqPending ++ s.irqScript.headD [] ∧ t.irqScript = s.irqScript.tail ∧
      t.spiAnswers = s.spiAnswers.tail ∧
      t.drawCount = (if s.spiAnswers = [] then s.drawCount + 1 else s.drawCount) ∧
      t.rxAnswers = s.rxAnswers ∧ t.staAnswers = s.staAnswers) ∧
    (∀ d : Word, exec (.writeAssign (viewAddr (.spibuf c) .assign) d) s = .next
      { s with
        trace := s.trace ++ [.spiWriteBuffer c d]
        irqPending := s.irqPending ++ s.irqScript.headD []
        irqScript := s.irqScript.tail
        response := okResponse 0#32 (.spibuf c) .assign })

/-- If READ32 of any address answers a next state, then IFS, IEC, IPC and INTSTAT are as before and no
notify_interrupt event was emitted. The spec marks as its own: R46: derived; R47: decision D10, derived.
(40_bus_access.md R110; 10_state.md R46, R47.) -/
def Obligations.ReadsNeverTouchInterrupts : Prop :=
  ∀ (s t : State) (a : Word), exec (.read32 a) s = .next t →
    t.rf.get .intstat = s.rf.get .intstat ∧ (∀ r, ReadByArbiter r → t.rf.get r = s.rf.get r) ∧
      ∃ es, t.trace = s.trace ++ es ∧ ∀ l v, Event.notifyInterrupt l v ∉ es

/-- On a running block, WRITE32.ASSIGN to a stored, writable register with no write hook (OSCCON, TRISx, UxSTA,
SPIxSTAT) stores (v & M) | (d & ~M), responds OK with the view's name, and changes nothing else.
(40_bus_access.md R111, R100, R101, R104.) -/
def Obligations.WriteAssignStoresData : Prop :=
  ∀ (s : State) (r : Reg) (d : Word), Running s → (params.regMap r).ro = false → (params.regMap r).stored = true →
    (params.regMap r).whook = .none →
    exec (.writeAssign (viewAddr r .assign) d) s = .next
      { s with
        rf := s.rf.set r
          ((s.rf.get r &&& (params.regMap r).roMask) ||| (d &&& ~~~(params.regMap r).roMask))
        response := okResponse 0#32 r .assign }

/-- On a running block, WRITE32.CLR to a stored, writable register with no write hook (OSCCON, TRISx, UxSTA,
SPIxSTAT) stores (v & M) | ((v & ~d) & ~M), responds OK with the view's name, and changes nothing else.
(40_bus_access.md R112, R100, R101, R104.) -/
def Obligations.WriteClrClearsBits : Prop :=
  ∀ (s : State) (r : Reg) (d : Word), Running s → (params.regMap r).ro = false → (params.regMap r).stored = true →
    (params.regMap r).whook = .none →
    exec (.writeClr (viewAddr r .clear) d) s = .next
      { s with
        rf := s.rf.set r
          ((s.rf.get r &&& (params.regMap r).roMask) ||| ((s.rf.get r &&& ~~~d) &&& ~~~(params.regMap r).roMask))
        response := okResponse 0#32 r .clear }

/-- On a running block, WRITE32.SET to a stored, writable register with no write hook (OSCCON, TRISx, UxSTA,
SPIxSTAT) stores (v & M) | ((v | d) & ~M), responds OK with the view's name, and changes nothing else.
(40_bus_access.md R113, R100, R101, R104.) -/
def Obligations.WriteSetSetsBits : Prop :=
  ∀ (s : State) (r : Reg) (d : Word), Running s → (params.regMap r).ro = false → (params.regMap r).stored = true →
    (params.regMap r).whook = .none →
    exec (.writeSet (viewAddr r .set) d) s = .next
      { s with
        rf := s.rf.set r
          ((s.rf.get r &&& (params.regMap r).roMask) ||| ((s.rf.get r ||| d) &&& ~~~(params.regMap r).roMask))
        response := okResponse 0#32 r .set }

/-- On a running block, WRITE32.INV to a stored, writable register with no write hook (OSCCON, TRISx, UxSTA,
SPIxSTAT) stores (v & M) | ((v ^ d) & ~M), responds OK with the view's name, and changes nothing else.
(40_bus_access.md R114, R100, R101, R104.) -/
def Obligations.WriteInvInvertsBits : Prop :=
  ∀ (s : State) (r : Reg) (d : Word), Running s → (params.regMap r).ro = false → (params.regMap r).stored = true →
    (params.regMap r).whook = .none →
    exec (.writeInv (viewAddr r .invert) d) s = .next
      { s with
        rf := s.rf.set r
          ((s.rf.get r &&& (params.regMap r).roMask) ||| ((s.rf.get r ^^^ d) &&& ~~~(params.regMap r).roMask))
        response := okResponse 0#32 r .invert }

/-- On a running block, a WRITE32 through any view of TRISx stores the alias function's value, with no mask, runs
no hook and changes nothing else but the response. The spec marks as its own: R122: decision D21.
(41_dispatch.md R122.) -/
def Obligations.TrisIsPlainStorage : Prop :=
  ∀ (s : State) (b : Fin 7) (k : View) (d : Word), Running s →
    exec (writeInstr k (viewAddr (.tris b) k) d) s = .next
      { s with
        rf := s.rf.set (.tris b) (aliasWrite k (s.rf.get (.tris b)) d)
        response := okResponse 0#32 (.tris b) k }

/-- On a running block, a WRITE32 through any view of LATx stores the alias function's value n and then emits
gpio_latch_changed(b, n), changed or not; nothing else of the block changes. How the model holds what the
outside will do (irqPending, irqScript) is its own choice and not the spec's. (41_dispatch.md R120;
40_bus_access.md R104; log entry 7 (the backends' interrupt script: the model's choice).) -/
def Obligations.WriteLatchNotifiesGpio : Prop :=
  ∀ (s : State) (b : Fin 7) (k : View) (d : Word), Running s →
    exec (writeInstr k (viewAddr (.lat b) k) d) s = .next
      { s with
        rf := s.rf.set (.lat b) (aliasWrite k (s.rf.get (.lat b)) d)
        trace := s.trace ++ [.gpioLatchChanged b (aliasWrite k (s.rf.get (.lat b)) d)]
        irqPending := s.irqPending ++ s.irqScript.headD []
        irqScript := s.irqScript.tail
        response := okResponse 0#32 (.lat b) k }

/-- On a running block, a WRITE32 through any view of UxMODE stores the alias function's value and then emits
uart_apply_mode(u), changed or not; nothing else of the block changes. How the model holds what the outside
will do (irqPending, irqScript) is its own choice and not the spec's. The spec marks as its own: R126:
decision D21. (41_dispatch.md R126; 40_bus_access.md R104; log entry 7 (the backends' interrupt script: the
model's choice).) -/
def Obligations.WriteUartModeAppliesMode : Prop :=
  ∀ (s : State) (u : Fin 6) (k : View) (d : Word), Running s →
    exec (writeInstr k (viewAddr (.umode u) k) d) s = .next
      { s with
        rf := s.rf.set (.umode u) (aliasWrite k (s.rf.get (.umode u)) d)
        trace := s.trace ++ [.uartApplyMode u]
        irqPending := s.irqPending ++ s.irqScript.headD []
        irqScript := s.irqScript.tail
        response := okResponse 0#32 (.umode u) k }

/-- On a running block, a WRITE32 through any view of SPIxCON stores the alias function's value and then emits
spi_configure(c), changed or not; nothing else of the block changes. How the model holds what the outside will
do (irqPending, irqScript) is its own choice and not the spec's. (41_dispatch.md R135; 40_bus_access.md R104;
log entry 7 (the backends' interrupt script: the model's choice).) -/
def Obligations.WriteSpiControlConfigures : Prop :=
  ∀ (s : State) (c : Fin 4) (k : View) (d : Word), Running s →
    exec (writeInstr k (viewAddr (.spicon c) k) d) s = .next
      { s with
        rf := s.rf.set (.spicon c) (aliasWrite k (s.rf.get (.spicon c)) d)
        trace := s.trace ++ [.spiConfigure c]
        irqPending := s.irqPending ++ s.irqScript.headD []
        irqScript := s.irqScript.tail
        response := okResponse 0#32 (.spicon c) k }

/-- On a running block, a WRITE32 of d to UxTXREG emits uart_transmit(u, d[7:0]) and leaves every register as it
was; d[31:8] has no effect. How the model holds what the outside will do (irqPending, irqScript) is its own
choice and not the spec's. The spec marks as its own: R123: decision D21; R106: derived. (41_dispatch.md R123;
40_bus_access.md R106; log entry 7 (the backends' interrupt script: the model's choice).) -/
def Obligations.WriteUartTransmitForwardsByte : Prop :=
  ∀ (s : State) (u : Fin 6) (d : Word), Running s →
    exec (.writeAssign (viewAddr (.utxreg u) .assign) d) s = .next
      { s with
        trace := s.trace ++ [.uartTransmit u (d.extractLsb' 0 8)]
        irqPending := s.irqPending ++ s.irqScript.headD []
        irqScript := s.irqScript.tail
        response := okResponse 0#32 (.utxreg u) .assign }

/-- On a running block, a WRITE32 of d to SYSKEY takes Locked with 0xAA996655 to Stage1, Stage1 with 0x556699AA to
Unlocked, and every other state and value to Locked; no register, no event and no diagnostic. The spec marks
as its own: R130: decision D23; R131: decision D21. (41_dispatch.md R130, R131.) -/
def Obligations.WriteSyskeyStepsSequencer : Prop :=
  ∀ (s : State) (d : Word), Running s →
    exec (.writeAssign (viewAddr .syskey .assign) d) s = .next
      { s with
        seq :=
          if s.seq = .locked ∧ d = 0xAA996655#32 then .stage1
          else if s.seq = .stage1 ∧ d = 0x556699AA#32 then .unlocked
          else .locked
        response := okResponse 0#32 .syskey .assign }

/-- On a running block, a WRITE32 through any view of RSWRST stores the alias function's value n; if the sequencer
is Unlocked and bit 0 of n is 1 the soft reset runs: every register holds its reset value, the sequencer is
Locked, and device_soft_reset and notify_interrupt(0, 0) are emitted; otherwise nothing else changes. The
response is OK either way. How the model holds what the outside will do (irqPending, irqScript) is its own
choice and not the spec's. The spec marks as its own: R133: decision D24; R134: derived; R172: derived.
(41_dispatch.md R133, R134; 43_lifecycle.md R172; log entry 7 (the backends' interrupt script: the model's
choice).) -/
def Obligations.WriteRswrstFiresOnlyUnlocked : Prop :=
  ∀ (s : State) (k : View) (d : Word), Running s →
    exec (writeInstr k (viewAddr .rswrst k) d) s = .next
      (if s.seq = .unlocked ∧ (aliasWrite k (s.rf.get .rswrst) d).getLsbD 0 = true then
        { s with
          rf := resetFile
          seq := .locked
          trace := s.trace ++ [.deviceSoftReset, .notifyInterrupt 0#3 0#8]
          irqPending := s.irqPending ++ s.irqScript.headD []
          irqScript := s.irqScript.tail
          response := okResponse 0#32 .rswrst k }
      else
        { s with
          rf := s.rf.set .rswrst (aliasWrite k (s.rf.get .rswrst) d)
          response := okResponse 0#32 .rswrst k })

/-- On a running block in Unlocked, WRITE32.ASSIGN of 1 to RSWRST completes with every register at its power-up
value and the sequencer Locked; in Locked or Stage1 it completes with RSWRST = 1, every other register as
before and the sequencer unchanged. The spec marks as its own: R174: derived. (43_lifecycle.md R174.) -/
def Obligations.SoftResetLaw : Prop :=
  ∀ s : State, Running s →
    (s.seq = .unlocked →
      ∃ t, exec (.writeAssign (viewAddr .rswrst .assign) 1#32) s = .next t ∧ t.seq = .locked ∧
        ∀ r, t.rf.get r = (params.regMap r).reset) ∧
    (s.seq = .locked ∨ s.seq = .stage1 →
      ∃ t, exec (.writeAssign (viewAddr .rswrst .assign) 1#32) s = .next t ∧ t.seq = s.seq ∧
        t.rf.get .rswrst = 1#32 ∧ ∀ r, r ≠ .rswrst → t.rf.get r = s.rf.get r)

/-- On a running block, a WRITE32 through any view of an IFS, IEC or IPC register stores the alias function's
value, then INTSTAT becomes the arbitration result over the updated registers and one notify_interrupt with it
is emitted, whether or not the stored value changed; no other register changes, so no flag does but by a write
to its own IFS register. The spec marks as its own: R153: decision D7; R152: decision D6; R156: decision D30.
(42_interrupts.md R153, R152, R156; 40_bus_access.md R104.) -/
def Obligations.WriteInterruptRegisterRecomputes : Prop :=
  ∀ (s : State) (r : Reg) (k : View) (d : Word), Running s → ReadByArbiter r →
    exec (writeInstr k (viewAddr r k) d) s = .next
      { s with
        rf := (s.rf.set r (aliasWrite k (s.rf.get r) d)).set .intstat
          (packStatus (arbitrate params (s.rf.set r (aliasWrite k (s.rf.get r) d))))
        trace := s.trace ++
          [.notifyInterrupt (arbitrate params (s.rf.set r (aliasWrite k (s.rf.get r) d))).level
            (arbitrate params (s.rf.set r (aliasWrite k (s.rf.get r) d))).vector]
        response := okResponse 0#32 r k }

/-- On a running block, a WRITE32 through any view of a read-only register (INTSTAT, DEVID, UxRXREG) emits one
ReadOnlyViolation report with the address and the view's name, responds RO_VIOLATION, and leaves every
register, the sequencer and the latch unchanged, with no hook and no recompute; the block is still running.
(R105.) -/
def Obligations.WriteReadOnlyIsReported : Prop :=
  ∀ (s : State) (r : Reg) (k : View) (d : Word), Running s → (params.regMap r).ro = true →
    ∃ t, exec (writeInstr k (viewAddr r k) d) s = .next t ∧ Running t ∧
      t = { s with
        trace := s.trace ++ [.report .readOnlyViolation (viewAddr r k) .write (symbolicName params r k)]
        response := { status := .roViolation, value := some 0#32, name := symbolicName params r k } }

/-- On a running block, a WRITE32 of d through any view k of a stored, writable register other than RSWRST (whose
soft reset then overwrites the storage update) completes with RF[r] = (v & M) | (alias(k, v, d) & ~M); every
bit set in M keeps its old value, and with M = 0 the result is alias(k, v, d). (R101.) -/
def Obligations.MaskedWriteMerges : Prop :=
  ∀ (s : State) (r : Reg) (k : View) (d : Word), Running s → HasView r k → (params.regMap r).ro = false →
    (params.regMap r).stored = true → r ≠ .rswrst →
    ∃ t, exec (writeInstr k (viewAddr r k) d) s = .next t ∧
      t.rf.get r = (s.rf.get r &&& (params.regMap r).roMask) |||
        (aliasWrite k (s.rf.get r) d &&& ~~~(params.regMap r).roMask) ∧
      (∀ j, (params.regMap r).roMask.getLsbD j = true → (t.rf.get r).getLsbD j = (s.rf.get r).getLsbD j) ∧
      ((params.regMap r).roMask = 0#32 → t.rf.get r = aliasWrite k (s.rf.get r) d)

/-- For every parameter set with a well-formed map and every register with ro = false, stored = true, ro_mask = 0
and no read hook whose write hook leaves RF[r] as stored, the write pipeline on base + 4k followed by the read
pipeline on the base returns alias(k, v, d) of the value v before; and in REF every write hook but rswrst
leaves its own register as stored. The spec marks as its own: R115: derived. (40_bus_access.md R115.) -/
def Obligations.AliasLaw : Prop :=
  (∀ (p : Params) (s : State) (r : Reg) (k : View) (d : Word), Params.wf p = true →
    (p.regMap r).ro = false → (p.regMap r).stored = true → (p.regMap r).roMask = 0#32 →
    (p.regMap r).rhook = .none → (k = .assign ∨ (p.regMap r).aliased = true) →
    (writeHook p r d (storeWrite p r k d s)).rf.get r = (storeWrite p r k d s).rf.get r →
    ∃ t u, writePipeline p ((p.regMap r).base + viewOffset k) d s = .next t ∧
      readPipeline p (p.regMap r).base t = .next u ∧
      u.response.value = some (aliasWrite k (s.rf.get r) d)) ∧
  (∀ (s : State) (r : Reg) (d : Word), r ≠ .rswrst →
    (writeHook params r d s).rf.get r = s.rf.get r)

/-- On a running block, any write through any view of a read-only register completes with status RO_VIOLATION and
one ReadOnlyViolation report, and the stored value is unchanged. With no read hook, a later READ32 through any
view returns the value held before the write. For UxRXREG the write draws no answer, and a later READ32 polls
first: it returns the byte the poll answers, zero-extended, or the stored value if it answers none. How the
model holds what the outside will do (rxAnswer) is its own choice and not the spec's. The spec marks as its
own: R116: derived; R124: decision D26. (40_bus_access.md R105, R116; 41_dispatch.md R124; 60_exceptions.md
R182; log entry 8 (the backends' answers: the model's choice).) -/
def Obligations.ReadOnlyLaw : Prop :=
  ∀ (s : State) (r : Reg) (k l : View) (d : Word), Running s → (params.regMap r).ro = true →
    ∃ t, exec (writeInstr k (viewAddr r k) d) s = .next t ∧ t.response.status = .roViolation ∧
      t.trace = s.trace ++ [.report .readOnlyViolation (viewAddr r k) .write (symbolicName params r k)] ∧
      t.rf.get r = s.rf.get r ∧
      ((params.regMap r).rhook = .none →
        ∃ u, exec (.read32 (viewAddr r l)) t = .next u ∧ u.response = okResponse (s.rf.get r) r l) ∧
      (∀ h : Fin 6, r = .urxreg h → rxAnswer t = rxAnswer s ∧
        ∃ u, exec (.read32 (viewAddr r l)) t = .next u ∧
          u.response = okResponse (((rxAnswer s).map (·.setWidth 32)).getD (s.rf.get r)) r l)

/-- If a WRITE32 through any view of an address that decodes to r answers a next state, then every register other
than r is unchanged, but for INTSTAT when r is an IFS, IEC or IPC register; the one exception is an RSWRST
write in Unlocked. The latch, the initialised bit, the inbox and the backends' answers are unchanged, and so
is the sequencer unless r is SYSKEY or that reset fires. How the model holds what the outside will do (inbox,
rxAnswers, staAnswers, spiAnswers, drawCount) is its own choice and not the spec's. The spec marks as its own:
R46: derived; R47: decision D10, derived. (10_state.md R21, R46, R47; 40_bus_access.md R104; log entry 6 (the
inbox and the idle step: the model's choice); log entry 8 (the backends' answers: the model's choice).) -/
def Obligations.WriteFrame : Prop :=
  ∀ (s t : State) (i : Instr) (a : Word) (r : Reg) (k : View), WritesTo i a → decodeAddr params a = some (r, k) →
    exec i s = .next t →
    (r = .rswrst ∧ s.seq = .unlocked ∧ t.seq = .locked ∧ t.rf = resetFile ∨
      (∀ q, q ≠ r → (q = .intstat → ¬ReadByArbiter r) → t.rf.get q = s.rf.get q) ∧ (r ≠ .syskey → t.seq = s.seq)) ∧
    t.halted = s.halted ∧ t.initialised = s.initialised ∧ t.inbox = s.inbox ∧ t.rxAnswers = s.rxAnswers ∧
      t.staAnswers = s.staAnswers ∧ t.spiAnswers = s.spiAnswers ∧ t.drawCount = s.drawCount

/-- On a running block, READ32 and WRITE32 (through any of the four instructions) of an address that decodes to no
register stop with UnmappedAddress; the state they leave has halted = some (addr, dir), one more event
report(1, addr, dir, empty name), response FATAL with no value for the READ32 and value 0 for the WRITE32, and
every other field as before; and a step of that state is again a fault. The empty name of the FATAL response
(log entry 16) and that a step with nothing waiting faults (log entry 6) are the model's choice. The spec
marks as its own: R181: decision D32; R41: decision D32; R82: decision D19. (60_exceptions.md R181, R182;
10_state.md R41; 30_encoding.md R82; log entry 6 (the inbox and the idle step: the model's choice); log entry
16 (the response record: the model's choice).) -/
def Obligations.UnmappedAccessIsFatal : Prop :=
  ∀ (s : State) (a d : Word) (k : View), Running s → decodeAddr params a = none →
    exec (.read32 a) s = .fault (.unmappedAddress a .read
      { s with
        halted := some { addr := a, dir := .read }
        trace := s.trace ++ [.report .unmappedAddress a .read ""]
        response := { status := .fatal, value := none, name := "" } }) ∧
    exec (writeInstr k a d) s = .fault (.unmappedAddress a .write
      { s with
        halted := some { addr := a, dir := .write }
        trace := s.trace ++ [.report .unmappedAddress a .write ""]
        response := { status := .fatal, value := some 0#32, name := "" } }) ∧
    (∀ dir, step (fatalState a dir s) = .fault (.halted a dir))

/-- On an initialised block with halted = some (addr, dir), exec of every instruction and step of the state,
whatever waits in its queues, answer the fault halted. That a step with nothing waiting faults (log entry 6)
and that a sub-word access or a reserved kind meets the halt before its refusal (log entry 12, DEDUCED) are
the model's. The spec marks as its own: R181: decision D32; R41: decision D32. (60_exceptions.md R181;
10_state.md R41; log entry 6 (the inbox and the idle step: the model's choice); log entry 12 (an uninitialised
block and the order of stops: DEDUCED).) -/
def Obligations.HaltedBlockTakesNoRequest : Prop :=
  ∀ (s : State) (a : Word) (dir : Dir), s.initialised = true → s.halted = some { addr := a, dir := dir } →
    (∀ i, exec i s = .fault (.halted a dir)) ∧ step s = .fault (.halted a dir)

/-- On an uninitialised block every instruction but RESET and INIT answers the fault uninitialised; RESET and INIT
complete, whatever the latch held, with every register at its reset value, the sequencer Locked, the latch
clear and the block initialised. R215 and I6 name READ32 and WRITE32: that IRQ_RAISE and IRQ_CLEAR fault as
well and that the latch of an uninitialised block is ignored are the model's reading of R49 (log entry 12,
DEDUCED). The spec marks as its own: R49: decision D2; R215: decision D2; R210: derived. (10_state.md R49;
70_reset_and_hazards.md R215, R210; 93_implementation_defined.md I6; log entry 12 (an uninitialised block and
the order of stops: DEDUCED).) -/
def Obligations.BeforeInitOnlyLifecycleCompletes : Prop :=
  ∀ (s : State) (i : Instr), s.initialised = false →
    (i ≠ .reset → (∀ h, i ≠ .init h) → exec i s = .fault .uninitialised) ∧
    (i = .reset ∨ (∃ h, i = .init h) →
      ∃ t, exec i s = .next t ∧ t.rf = resetFile ∧ t.seq = .locked ∧ Running t)

/-- If a step answers a next state, the trace it leaves is the old trace followed by new events, at most one of
which is a diagnostic report, and that one has code ReadOnlyViolation and direction Write: neither
InvalidSysKeySequence nor BackendFailure is ever reported. The spec marks as its own: R180: decision D33;
R183: derived. (60_exceptions.md R180, R182, R183.) -/
def Obligations.OnlyReadOnlyReportsFromSteps : Prop :=
  ∀ s t : State, step s = .next t →
    ∃ es, t.trace = s.trace ++ es ∧
      (∀ c a dir n, Event.report c a dir n ∈ es → c = .readOnlyViolation ∧ dir = .write ∧ es.length = 1)

/-- On a running block, IRQ_RAISE of i < 192 whose IFS bit is 0 completes with that bit set, INTSTAT the new
arbitration result and one notify_interrupt; with the bit already 1 it completes with nothing changed and no
event; nothing else changes either way. An index at or above N_SRC is refused. The request is kind 010 with
the index in data, and the rule's example holds. The spec marks as its own: R150: decision D29.
(42_interrupts.md R150.) -/
def Obligations.RaiseSetsFlagAndRecomputes : Prop :=
  (∀ a x : Word, decode ⟨0b010#3, a, x⟩ = .ok (.irqRaise x)) ∧
  (∀ (s : State) (x : Word), Running s → x.toNat < params.nSrc →
    exec (.irqRaise x) s = .next
      (if (s.rf.get (.ifs (flagReg x.toNat))).getLsbD (flagBit x.toNat) = true then
        { s with response := doneResponse }
      else
        let raised := s.rf.set (.ifs (flagReg x.toNat)) (s.rf.get (.ifs (flagReg x.toNat)) ||| 1#32 <<< flagBit x.toNat)
        { s with
          rf := raised.set .intstat (packStatus (arbitrate params raised))
          trace := s.trace ++ [.notifyInterrupt (arbitrate params raised).level (arbitrate params raised).vector]
          response := doneResponse })) ∧
  (∀ (s : State) (x : Word), Running s → params.nSrc ≤ x.toNat →
    exec (.irqRaise x) s = .refused (.sourceOutOfRange x)) ∧
  (∀ s : State, Running s → (∀ n, s.rf.get (.ifs n) = 0#32) → s.rf.get (.iec 0) = 0x00000004#32 →
    (∀ n, n ≠ 0 → s.rf.get (.iec n) = 0#32) → (s.rf.get (.ipc 0)).extractLsb' 18 3 = 3#3 →
    ∃ t, exec (.irqRaise 2#32) s = .next t ∧ t.rf.get (.ifs 0) = 0x00000004#32 ∧
      t.rf.get .intstat = 0x00000302#32 ∧ t.trace = s.trace ++ [.notifyInterrupt 3#3 2#8])

/-- On a running block, IRQ_CLEAR of i < 192 whose IFS bit is 1 completes with that bit clear, INTSTAT the new
arbitration result and one notify_interrupt; with the bit already 0 it completes with nothing changed and no
event; nothing else changes either way. An index at or above N_SRC is refused. The request is kind 011 with
the index in data, and the rule's example holds. The spec marks as its own: R151: decision D29.
(42_interrupts.md R151.) -/
def Obligations.ClearClearsFlagAndRecomputes : Prop :=
  (∀ a x : Word, decode ⟨0b011#3, a, x⟩ = .ok (.irqClear x)) ∧
  (∀ (s : State) (x : Word), Running s → x.toNat < params.nSrc →
    exec (.irqClear x) s = .next
      (if (s.rf.get (.ifs (flagReg x.toNat))).getLsbD (flagBit x.toNat) = true then
        let cleared := s.rf.set (.ifs (flagReg x.toNat))
          (s.rf.get (.ifs (flagReg x.toNat)) &&& ~~~(1#32 <<< flagBit x.toNat))
        { s with
          rf := cleared.set .intstat (packStatus (arbitrate params cleared))
          trace := s.trace ++ [.notifyInterrupt (arbitrate params cleared).level (arbitrate params cleared).vector]
          response := doneResponse }
      else { s with response := doneResponse })) ∧
  (∀ (s : State) (x : Word), Running s → params.nSrc ≤ x.toNat →
    exec (.irqClear x) s = .refused (.sourceOutOfRange x)) ∧
  (∀ s : State, Running s → s.rf.get (.ifs 0) = 0x00000004#32 → (∀ n, n ≠ 0 → s.rf.get (.ifs n) = 0#32) →
    ∃ t, exec (.irqClear 2#32) s = .next t ∧ t.rf.get (.ifs 0) = 0#32 ∧
      t.rf.get .intstat = 0x00000000#32 ∧ t.trace = s.trace ++ [.notifyInterrupt 0#3 0#8])

/-- If IRQ_RAISE of x answers a next state then source x is pending, and if IRQ_CLEAR of x does then it is not;
the flag of every other source below 192, every enable bit and every priority field are as before. The spec
marks as its own: R34: derived; R47: decision D10, derived. (10_state.md R34, R47; 00_scope.md R14.) -/
def Obligations.OneSourceChangesPerRequest : Prop :=
  ∀ (s t : State) (x : Word),
    (exec (.irqRaise x) s = .next t →
      flagSet t.rf x.toNat = true ∧ (∀ j < 192, j ≠ x.toNat → flagSet t.rf j = flagSet s.rf j) ∧
        ∀ j, enableSet t.rf j = enableSet s.rf j ∧ prio t.rf j = prio s.rf j) ∧
    (exec (.irqClear x) s = .next t →
      flagSet t.rf x.toNat = false ∧ (∀ j < 192, j ≠ x.toNat → flagSet t.rf j = flagSet s.rf j) ∧
        ∀ j, enableSet t.rf j = enableSet s.rf j ∧ prio t.rf j = prio s.rf j)

/-- For i < 192 the flag of source i is bit i mod 32 of IFS(i / 32) and its priority field is the three bits from
2 + 8 (i mod 4) of IPC(i / 4); distinct sources below 192 share neither a flag position nor a bit of a
priority field. The spec marks as its own: R34: derived; R36: derived, from general knowledge. (10_state.md
R34, R35, R36; 00_scope.md R14.) -/
def Obligations.SourcesHaveTheirOwnPosition : Prop :=
  (∀ (rf : RegFile) (n : Fin 6) (b : Fin 32), flagSet rf (32 * n.val + b.val) = (rf.get (.ifs n)).getLsbD b.val ∧
    enableSet rf (32 * n.val + b.val) = (rf.get (.iec n)).getLsbD b.val) ∧
  (∀ (rf : RegFile) (m : Fin 48), prio rf (4 * m.val) = (rf.get (.ipc m)).extractLsb' 2 3 ∧
    prio rf (4 * m.val + 1) = (rf.get (.ipc m)).extractLsb' 10 3 ∧
    prio rf (4 * m.val + 2) = (rf.get (.ipc m)).extractLsb' 18 3 ∧
    prio rf (4 * m.val + 3) = (rf.get (.ipc m)).extractLsb' 26 3) ∧
  (∀ i j, i < 192 → j < 192 → i ≠ j →
    (flagReg i, flagBit i) ≠ (flagReg j, flagBit j) ∧
    (ipcReg i = ipcReg j → ipcShift i + 3 ≤ ipcShift j ∨ ipcShift j + 3 ≤ ipcShift i))

/-- For every parameter set and register file, if source i < N_SRC is pending and enabled at a non-zero priority,
no pending, enabled source exceeds it and none of lower index equals it, then the arbitration result is
prio(i) and VEC(i); and every result of non-zero level is that of such a source. (R154.) -/
def Obligations.ArbiterPicksHighestThenLowest : Prop :=
  ∀ (p : Params) (rf : RegFile),
    (∀ i < p.nSrc, Asserted rf i →
      (∀ j < p.nSrc, flagSet rf j = true → enableSet rf j = true → prio rf j ≤ prio rf i) →
      (∀ j < i, flagSet rf j = true → enableSet rf j = true → prio rf j ≠ prio rf i) →
      arbitrate p rf = { level := prio rf i, vector := p.vec i }) ∧
    ((arbitrate p rf).level ≠ 0#3 →
      ∃ i < p.nSrc, Asserted rf i ∧ arbitrate p rf = { level := prio rf i, vector := p.vec i } ∧
        (∀ j < p.nSrc, flagSet rf j = true → enableSet rf j = true → prio rf j ≤ prio rf i) ∧
        (∀ j < i, flagSet rf j = true → enableSet rf j = true → prio rf j < prio rf i))

/-- The level is 0 exactly when no source below N_SRC is pending and enabled at a non-zero priority, and then the
vector is 0 and the recompute notifies (0, 0); a result of non-zero level is the priority and the vector of a
source below N_SRC that is pending and enabled at a non-zero priority, so a source of priority 0 never wins.
The spec marks as its own: R155: derived. (42_interrupts.md R155.) -/
def Obligations.LevelZeroNeverDelivered : Prop :=
  ∀ (p : Params) (s : State),
    ((arbitrate p s.rf).level = 0#3 ↔ ∀ i < p.nSrc, ¬Asserted s.rf i) ∧
    ((∀ i < p.nSrc, ¬Asserted s.rf i) →
      (arbitrate p s.rf).vector = 0#8 ∧ (recomputeStatus p s).trace = s.trace ++ [.notifyInterrupt 0#3 0#8]) ∧
    ((arbitrate p s.rf).level ≠ 0#3 →
      ∃ i < p.nSrc, Asserted s.rf i ∧ arbitrate p s.rf = { level := prio s.rf i, vector := p.vec i })

/-- Two register files in which the same sources below N_SRC are pending and enabled, with the same priority
fields for those, have the same arbitration result: flag and enable bits at or above N_SRC, IPC bits outside
the fields and the priorities of quiet sources do not matter. The spec marks as its own: R157: derived; R158:
derived, from general knowledge. (42_interrupts.md R157, R158.) -/
def Obligations.IgnoredBitsNeverAffectArbitration : Prop :=
  ∀ (p : Params) (rf rf' : RegFile),
    (∀ i < p.nSrc, (flagSet rf i && enableSet rf i) = (flagSet rf' i && enableSet rf' i)) →
    (∀ i < p.nSrc, flagSet rf i = true → enableSet rf i = true → prio rf i = prio rf' i) →
    arbitrate p rf = arbitrate p rf'

/-- For every register file in which exactly the flags of sources 2, 4, 7 and 9 are set, every source is enabled
and those four have priorities 3, 5, 5 and 1, the arbitration result is level 5 and vector 4, and INTSTAT
would hold 0x00000504. (R162.) -/
def Obligations.ArbitrationExample : Prop :=
  ∀ rf : RegFile,
    (∀ i < 192, flagSet rf i = true ↔ i = 2 ∨ i = 4 ∨ i = 7 ∨ i = 9) → (∀ i < 192, enableSet rf i = true) →
    prio rf 2 = 3#3 → prio rf 7 = 5#3 → prio rf 4 = 5#3 → prio rf 9 = 1#3 →
    arbitrate params rf = { level := 5#3, vector := 4#8 } ∧ packStatus (arbitrate params rf) = 0x00000504#32

/-- On a running block in which no source other than i < 192 is pending and enabled at a non-zero priority,
IRQ_RAISE i completes, IRQ_CLEAR i then completes, and INTSTAT is 0x00000000 with irq_level and irq_vector 0.
The spec marks as its own: R161: derived. (42_interrupts.md R161.) -/
def Obligations.RaiseThenClearReturnsToQuiet : Prop :=
  ∀ (s : State) (x : Word), Running s → x.toNat < 192 → (∀ j < 192, j ≠ x.toNat → ¬Asserted s.rf j) →
    ∃ t u, exec (.irqRaise x) s = .next t ∧ exec (.irqClear x) t = .next u ∧
      u.rf.get .intstat = 0x00000000#32 ∧ irqLevel u = 0#3 ∧ irqVector u = 0#8

/-- On a block that is not halted, initialised or not, RESET completes with the register file at the reset values,
the sequencer Locked, the latch clear, the events device_soft_reset and notify_interrupt(0, 0) in that order,
and the empty OK response; the inbox and the scripted answers are unchanged. How the model holds what the
outside will do (irqPending, irqScript) is its own choice and not the spec's. The spec marks as its own: R170:
decision D31, derived; R210: derived; R211: decision D10. (43_lifecycle.md R170; 70_reset_and_hazards.md R210,
R211; log entry 7 (the backends' interrupt script: the model's choice).) -/
def Obligations.ResetCompletes : Prop :=
  ∀ s : State, s.initialised = false ∨ s.halted = none →
    exec .reset s = .next
      { s with
        rf := resetFile
        seq := .locked
        halted := none
        initialised := true
        trace := s.trace ++ [.deviceSoftReset, .notifyInterrupt 0#3 0#8]
        irqPending := s.irqPending ++ s.irqScript.headD []
        irqScript := s.irqScript.tail
        response := doneResponse }

/-- On a block that is not halted, initialised or not, INIT of any handle completes with the same next state as
RESET: the reset values, Locked, the latch clear, device_soft_reset and notify_interrupt(0, 0); the handle is
stored nowhere. The spec marks as its own: R171: decision D31. (43_lifecycle.md R171; 00_scope.md R6.) -/
def Obligations.InitIsResetWithHandle : Prop :=
  ∀ (s : State) (handle : Word), s.initialised = false ∨ s.halted = none →
    ∃ t, exec (.init handle) s = .next t ∧ exec .reset s = .next t ∧ t.rf = resetFile ∧ t.seq = .locked ∧
      t.halted = none ∧ t.initialised = true ∧ t.response = doneResponse ∧
      t.trace = s.trace ++ [.deviceSoftReset, .notifyInterrupt 0#3 0#8]

/-- On a block that is not halted, RESET completes, a second RESET completes, the register file, the sequencer and
INTSTAT are the same after both, and each emits its own device_soft_reset and notify_interrupt(0, 0). The spec
marks as its own: R173: derived. (43_lifecycle.md R173.) -/
def Obligations.ResetTwiceIsResetOnce : Prop :=
  ∀ s : State, s.initialised = false ∨ s.halted = none →
    ∃ t u, exec .reset s = .next t ∧ exec .reset t = .next u ∧ u.rf = t.rf ∧ u.seq = t.seq ∧
      u.rf.get .intstat = t.rf.get .intstat ∧
      t.trace = s.trace ++ [.deviceSoftReset, .notifyInterrupt 0#3 0#8] ∧
      u.trace = t.trace ++ [.deviceSoftReset, .notifyInterrupt 0#3 0#8]

/-- In State.reset the GPIO direction and latch registers are all ones, OSCCON and DEVID hold their OPEN
parameters, every other register is 0, the sequencer is Locked, the latch is clear and the outputs are (0, 0).
The spec marks as its own: R210: derived; R211: decision D10; R40: decision D8. (70_reset_and_hazards.md R210,
R211, R212; 10_state.md R40; log entry 3 (the OPEN reset values); log entry 9 (where State.reset starts: the
model's choice); log entry 18 (the reset values of REF: PRESUMED).) -/
def Obligations.ResetValues : Prop :=
  (∀ b, State.reset.rf.get (.tris b) = 0xFFFFFFFF#32) ∧ (∀ b, State.reset.rf.get (.lat b) = 0xFFFFFFFF#32) ∧
  State.reset.rf.get .osccon = Config.oscconReset ∧ State.reset.rf.get .devid = Config.devidReset ∧
  (∀ r, (∀ b, r ≠ .tris b) → (∀ b, r ≠ .lat b) → r ≠ .osccon → r ≠ .devid → State.reset.rf.get r = 0x00000000#32) ∧
  State.reset.seq = .locked ∧ State.reset.halted = none ∧ irqLevel State.reset = 0#3 ∧ irqVector State.reset = 0#8

/-- State.reset is running, its INTSTAT is the arbitration result, its forward-only registers and DEVID hold their
reset values, its receive registers hold bytes and the read-only bits of SPIxSTAT are 0. The spec marks as its
own: R210: derived; R39: derived. (70_reset_and_hazards.md R210; 10_state.md R39; log entry 9 (where
State.reset starts: the model's choice).) -/
def Obligations.ResetMeetsInvariant : Prop :=
  Inv State.reset

/-- From every state in which INTSTAT equals the arbitration result over IFS, IEC and IPC, a step that answers a
next state leaves one in which it does; and from any state, an instruction that changes an IFS, IEC or IPC
register leaves INTSTAT consistent and has emitted, last of its events, a notify_interrupt. The spec marks as
its own: R39: derived. (10_state.md R39.) -/
def Obligations.StepKeepsStatusConsistent : Prop :=
  (∀ s t : State, StatusConsistent params s → step s = .next t → StatusConsistent params t) ∧
  (∀ (i : Instr) (s t : State) (r : Reg), exec i s = .next t → ReadByArbiter r → t.rf.get r ≠ s.rf.get r →
    StatusConsistent params t ∧ ∃ es l v, t.trace = s.trace ++ es ++ [.notifyInterrupt l v])

/-- From every state that is running with a consistent INTSTAT, forward-only registers and DEVID at their reset
values, receive registers that hold bytes and SPIxSTAT's read-only bits 0, a step that answers a next state
leaves such a state. The spec marks as its own: R39: derived; R41: decision D32; R106: derived; R123: decision
D21; R124: decision D26; R131: decision D21; R136: decision D25, from general knowledge; R140: decision D26.
(10_state.md R39, R41; 40_bus_access.md R101, R106; 41_dispatch.md R123, R124, R131, R136, R140; log entry 4
(the read-only masks of REF: PRESUMED).) -/
def Obligations.StepKeepsInvariant : Prop :=
  ∀ s t : State, Inv s → step s = .next t → Inv t

/-- If a step answers a next state, the events it emitted contain only notifications whose level and vector are
irq_level and irq_vector of the next state, and if INTSTAT changed the last event is such a notification. The
spec marks as its own: R42: derived; R156: decision D30. (10_state.md R42; 42_interrupts.md R156.) -/
def Obligations.NotificationCarriesOutputs : Prop :=
  ∀ s t : State, step s = .next t →
    ∃ es, t.trace = s.trace ++ es ∧
      (∀ l v, Event.notifyInterrupt l v ∈ es → l = irqLevel t ∧ v = irqVector t) ∧
      (t.rf.get .intstat ≠ s.rf.get .intstat →
        es.getLast? = some (.notifyInterrupt (irqLevel t) (irqVector t)))

/-- If an instruction answers a next state with another sequencer state, it is a WRITE32 to SYSKEY, or a WRITE32
to RSWRST in Unlocked that leaves Locked, or RESET or INIT leaving Locked; and a sequencer that is Unlocked
after but not before was in Stage1 and got 0x556699AA. The spec marks as its own: R40: decision D8; R130:
decision D23; R133: decision D24. (10_state.md R40; 41_dispatch.md R130, R133.) -/
def Obligations.SequencerChangesOnlyByKeyOrReset : Prop :=
  ∀ (i : Instr) (s t : State), exec i s = .next t →
    (t.seq ≠ s.seq →
      WritesTo i (viewAddr .syskey .assign) ∨
      (∃ k, WritesTo i (viewAddr .rswrst k) ∧ s.seq = .unlocked ∧ t.seq = .locked) ∨
      (i = .reset ∨ ∃ h, i = .init h) ∧ t.seq = .locked) ∧
    (t.seq = .unlocked → s.seq ≠ .unlocked →
      s.seq = .stage1 ∧ ∃ k, i = writeInstr k (viewAddr .syskey .assign) 0x556699AA#32)

/-- If an instruction other than RESET, INIT and a WRITE32 to a view of SYSKEY or RSWRST answers next state t,
then from the same state with any other sequencer state it answers t with that sequencer state: its response,
its events and its registers reveal nothing of seq. The spec marks as its own: R40: decision D8; R131:
decision D21. (10_state.md R40; 41_dispatch.md R131.) -/
def Obligations.SequencerIsNotReadable : Prop :=
  ∀ (i : Instr) (s t : State) (q : Sequencer), exec i s = .next t → i ≠ .reset → (∀ h, i ≠ .init h) →
    (∀ a, WritesTo i a → ∀ k, decodeAddr params a ≠ some (.syskey, k) ∧ decodeAddr params a ≠ some (.rswrst, k)) →
    exec i { s with seq := q } = .next { t with seq := q }

/-- If an instruction answers a next state with another value of IFSn, it is IRQ_RAISE or IRQ_CLEAR of a source of
that register, a WRITE32 to a view of IFSn, a WRITE32 to RSWRST in Unlocked, RESET or INIT: reads and writes
to IECn, IPCn, INTSTAT and everything else change no flag. The spec marks as its own: R46: derived; R47:
decision D10, derived. (10_state.md R21, R46, R47.) -/
def Obligations.FlagsChangeOnlyByTheirOwnRequests : Prop :=
  ∀ (i : Instr) (s t : State) (n : Fin 6), exec i s = .next t → t.rf.get (.ifs n) ≠ s.rf.get (.ifs n) →
    (∃ x : Word, (i = .irqRaise x ∨ i = .irqClear x) ∧ flagReg x.toNat = n) ∨
    (∃ k, WritesTo i (viewAddr (.ifs n) k)) ∨
    (∃ k, WritesTo i (viewAddr .rswrst k) ∧ s.seq = .unlocked) ∨
    i = .reset ∨ ∃ h, i = .init h

/-- On a running block, a WRITE32 through any view of LATx of the bank SD_CS_BANK makes exactly one latch call,
after which the SD select line is asserted exactly when bit SD_CS_BIT of the new latch is 0; a write to the
latch of another bank leaves the line as it was. The spec marks as its own: R121: decision D28.
(41_dispatch.md R120, R121; log entry 14 (the collaborator's parameters).) -/
def Obligations.SdSelectFollowsLatch : Prop :=
  ∀ (s : State) (b : Fin 7) (k : View) (d : Word), Running s →
    ∃ t v, exec (writeInstr k (viewAddr (.lat b) k) d) s = .next t ∧ t.rf.get (.lat b) = v ∧
      t.trace = s.trace ++ [.gpioLatchChanged b v] ∧
      (b = Config.sdCsBank → sdSelected t.trace = some (!v.getLsbD Config.sdCsBit.val)) ∧
      (b ≠ Config.sdCsBank → sdSelected t.trace = sdSelected s.trace)

/-- A write to LATx whose backend answers with the one interrupt request raise x leaves that request waiting, not
served; the next step is IRQ_RAISE of x, whatever the inbox holds, and leaves the inbox as it was. The script,
and that the raise goes before a waiting RESET or INIT too, are the model's choice (log entry 7): R139 says
only before any later request of the CPU core. The spec marks as its own: R139: decision D27; R69: derived.
(41_dispatch.md R139; 20_memory.md R69; log entry 6 (the inbox and the idle step: the model's choice); log
entry 7 (the backends' interrupt script: the model's choice).) -/
def Obligations.BackendInterruptsWaitTheirTurn : Prop :=
  ∀ (s : State) (b : Fin 7) (k : View) (d x : Word) (rest : List (List BackendIrq)), Running s →
    s.irqPending = [] → s.irqScript = [.raise x] :: rest → x.toNat < 192 →
    ∃ t u, exec (writeInstr k (viewAddr (.lat b) k) d) s = .next t ∧
      t.rf.get (.ifs (flagReg x.toNat)) = s.rf.get (.ifs (flagReg x.toNat)) ∧ t.irqPending = [.raise x] ∧
      step t = .next u ∧ flagSet u.rf x.toNat = true ∧ u.irqPending = [] ∧ u.inbox = s.inbox
end

