-- ==== Sys2Proof/Laws/RegFile.lean ====
section
/-! SUPPORT. The laws of the register file: a read after a write, reads of a file given by a function, when two
files are equal, and that the list of registers lists every register. -/

namespace Sys2Proof

/-- `Reg.all` lists every register. -/
theorem Reg.mem_all (r : Reg) : r ∈ Reg.all := by
  cases r <;> simp [Reg.all]

namespace Machine

@[simp] theorem RegFile.get_set_self (rf : RegFile) (r : Reg) (v : Word) :
    (rf.set r v).get r = v := by
  cases r <;> simp [RegFile.get, RegFile.set]

theorem RegFile.get_set_of_ne {q r : Reg} (h : q ≠ r) (rf : RegFile) (v : Word) :
    (rf.set r v).get q = rf.get q := by
  cases q <;> cases r <;> simp_all [RegFile.get, RegFile.set] <;>
    (apply Vector.getElem_set_ne; intro e; exact h (Fin.ext e.symm))

theorem RegFile.get_set (rf : RegFile) (q r : Reg) (v : Word) :
    (rf.set r v).get q = if q = r then v else rf.get q := by
  split
  · next h => rw [h, RegFile.get_set_self]
  · next h => exact RegFile.get_set_of_ne h rf v

@[simp] theorem RegFile.get_ofFn (f : Reg → Word) (r : Reg) : (RegFile.ofFn f).get r = f r := by
  cases r <;> simp [RegFile.get, RegFile.ofFn]

/-- Two register files that agree on every register are equal. -/
theorem RegFile.ext_get {a b : RegFile} (h : ∀ r, a.get r = b.get r) : a = b := by
  have hv {n : Nat} {f : Fin n → Reg} {x y : Vector Word n}
      (hx : ∀ i : Fin n, a.get (f i) = x[i]) (hy : ∀ i : Fin n, b.get (f i) = y[i]) : x = y :=
    Vector.ext fun i hi => by
      have := h (f ⟨i, hi⟩)
      rwa [hx, hy] at this
  cases a; cases b
  simp only [RegFile.mk.injEq]
  exact ⟨h .intstat, hv (f := .ifs) (fun _ => rfl) (fun _ => rfl), hv (f := .iec) (fun _ => rfl) (fun _ => rfl),
    hv (f := .ipc) (fun _ => rfl) (fun _ => rfl), h .syskey, h .rswrst, h .osccon, h .devid,
    hv (f := .tris) (fun _ => rfl) (fun _ => rfl), hv (f := .lat) (fun _ => rfl) (fun _ => rfl),
    hv (f := .umode) (fun _ => rfl) (fun _ => rfl), hv (f := .usta) (fun _ => rfl) (fun _ => rfl),
    hv (f := .utxreg) (fun _ => rfl) (fun _ => rfl), hv (f := .urxreg) (fun _ => rfl) (fun _ => rfl),
    hv (f := .spicon) (fun _ => rfl) (fun _ => rfl), hv (f := .spistat) (fun _ => rfl) (fun _ => rfl),
    hv (f := .spibuf) (fun _ => rfl) (fun _ => rfl)⟩

/-- Writing the value a register holds changes nothing. -/
theorem RegFile.set_get_self (rf : RegFile) (r : Reg) : rf.set r (rf.get r) = rf :=
  RegFile.ext_get fun q => by
    rw [RegFile.get_set]
    split
    · next h => rw [h]
    · rfl

/-- The second of two writes to one register wins. -/
@[simp] theorem RegFile.set_set (rf : RegFile) (r : Reg) (v w : Word) :
    (rf.set r v).set r w = rf.set r w :=
  RegFile.ext_get fun q => by
    simp only [RegFile.get_set]
    split <;> rfl

end Machine

end Sys2Proof
end

