-- ==== Sys2Proof/Laws/Operands.lean ====
section
/-! SUPPORT. The laws of the operand forms: the decoder over a well-formed register table, the alias-write protocol
bit by bit, the index arithmetic below 192, and that the reference instance is well formed. -/

namespace Sys2Proof.Machine

/-! ### The index arithmetic (rule R14) -/

theorem flagReg_val {i : Nat} (h : i < 192) : (flagReg i).val = i / 32 := by
  simp only [flagReg, Fin.val_ofNat, Nat.shiftRight_eq_div_pow]
  omega

theorem flagBit_eq (i : Nat) : flagBit i = i % 32 := by
  simpa [flagBit] using Nat.and_two_pow_sub_one_eq_mod i 5

theorem flagBit_lt (i : Nat) : flagBit i < 32 := by
  rw [flagBit_eq]; exact Nat.mod_lt _ (by decide)

theorem ipcReg_val {i : Nat} (h : i < 192) : (ipcReg i).val = i / 4 := by
  simp only [ipcReg, Fin.val_ofNat, Nat.shiftRight_eq_div_pow]
  omega

theorem ipcShift_eq (i : Nat) : ipcShift i = 2 + 8 * (i % 4) := by
  have : i &&& 3 = i % 4 := by simpa using Nat.and_two_pow_sub_one_eq_mod i 2
  rw [ipcShift, this]

/-- Two sources below 192 with the same flag register and flag bit are the same source. -/
theorem flag_position_inj {i j : Nat} (hi : i < 192) (hj : j < 192) (hr : flagReg i = flagReg j)
    (hb : flagBit i = flagBit j) : i = j := by
  have h := congrArg Fin.val hr
  rw [flagReg_val hi, flagReg_val hj] at h
  rw [flagBit_eq, flagBit_eq] at hb
  omega

/-! ### The alias-write protocol (rules R100, R101) -/

/-- A bit the mask protects keeps its value. -/
theorem mergeWrite_masked {m v d : Word} {k : View} {i : Nat} (h : m.getLsbD i = true) :
    (mergeWrite m k v d).getLsbD i = v.getLsbD i := by
  simp [mergeWrite, h]

/-- A bit the mask leaves free takes the alias function's value. -/
theorem mergeWrite_unmasked {m v d : Word} {k : View} {i : Nat} (hi : i < 32) (h : m.getLsbD i = false) :
    (mergeWrite m k v d).getLsbD i = (aliasWrite k v d).getLsbD i := by
  rw [BitVec.getLsbD_eq_getElem hi] at h ⊢
  simp [mergeWrite, h, hi]

@[simp] theorem mergeWrite_zero (k : View) (v d : Word) : mergeWrite 0#32 k v d = aliasWrite k v d := by
  have h : ~~~(0#32) = BitVec.allOnes 32 := by decide
  rw [mergeWrite, h, BitVec.and_allOnes, BitVec.and_zero, BitVec.zero_or]

/-- Whatever is written, the protected bits of the result are those of the old value. -/
theorem mergeWrite_and_mask (m : Word) (k : View) (v d : Word) : mergeWrite m k v d &&& m = v &&& m := by
  ext i hi
  simp only [BitVec.getElem_and, mergeWrite, BitVec.getElem_or, BitVec.getElem_not]
  cases m[i] <;> simp

/-! ### The decoder (rules R52, R53) -/

/-- Exactly when an address is a view of a register: it is the view's address, and a view other than assign needs an
alias group. -/
theorem viewAt_eq_some {d : RegDesc} {a : Word} {k : View} :
    viewAt d a = some k ↔ a = d.base + viewOffset k ∧ (k = .assign ∨ d.aliased = true) := by
  have inj : ∀ x y : Word, d.base + x = d.base + y ↔ x = y := fun x y => BitVec.add_right_inj d.base
  have ne : ∀ j l : View, viewOffset j = viewOffset l ↔ j = l := by
    intro j l; cases j <;> cases l <;> decide
  unfold viewAt
  repeat' split
  all_goals
    constructor
    · intro h
      simp_all
    · rintro ⟨rfl, hk⟩
      cases k <;> simp_all

/-- What the decoder answers is a view of the register it names. -/
theorem decodeOn_sound {m : RegMap} {a : Word} {rs : List Reg} {r : Reg} {k : View}
    (h : decodeOn m a rs = some (r, k)) : r ∈ rs ∧ viewAt (m r) a = some k := by
  induction rs with
  | nil => simp [decodeOn] at h
  | cons q qs ih =>
    unfold decodeOn at h
    split at h
    · next k' hk =>
      obtain ⟨rfl, rfl⟩ : q = r ∧ k' = k := by simpa using h
      exact ⟨List.mem_cons_self, hk⟩
    · exact ⟨List.mem_cons_of_mem _ (ih h).1, (ih h).2⟩

theorem decodeAddr_sound {p : Params} {a : Word} {r : Reg} {k : View} (h : decodeAddr p a = some (r, k)) :
    viewAt (p.regMap r) a = some k :=
  (decodeOn_sound h).2

theorem viewOffset_toNat_mem {d : RegDesc} {k : View} (h : k = .assign ∨ d.aliased = true) :
    (viewOffset k).toNat ∈ d.offsets := by
  unfold RegDesc.offsets
  split <;> cases k <;> simp_all [viewOffset]

/-- A decoded address is in the descriptor's address set, whose numbers do not wrap. -/
theorem mem_addrs_of_viewAt {d : RegDesc} {a : Word} {k : View} (hw : d.noWrap = true) (h : viewAt d a = some k) :
    a.toNat ∈ d.addrs := by
  obtain ⟨rfl, hk⟩ := viewAt_eq_some.mp h
  have hm : d.base.toNat + (viewOffset k).toNat ∈ d.addrs :=
    List.mem_map_of_mem (viewOffset_toNat_mem hk)
  have hlt := List.all_eq_true.mp hw _ hm
  rw [BitVec.toNat_add, Nat.mod_eq_of_lt (by simpa using hlt)]
  exact hm

theorem decodeOn_complete {m : RegMap} {a : Word} {r : Reg} {k : View} (h : viewAt (m r) a = some k) :
    ∀ {rs : List Reg}, (∀ q ∈ rs, (m q).noWrap = true) → RegMap.disjointOn m rs = true → r ∈ rs →
      decodeOn m a rs = some (r, k)
  | [], _, _, hr => by simp at hr
  | q :: qs, hw, hd, hr => by
    simp only [RegMap.disjointOn, Bool.and_eq_true, List.all_eq_true] at hd
    unfold decodeOn
    split
    · next k' hk =>
      by_cases e : q = r
      · subst e
        simp_all
      · have hrq : r ∈ qs := by simpa [Ne.symm e] using hr
        have hdis := hd.1 r hrq
        have h1 := mem_addrs_of_viewAt (hw q List.mem_cons_self) hk
        have h2 := mem_addrs_of_viewAt (hw r (List.mem_cons_of_mem _ hrq)) h
        simp only [RegDesc.disjoint, List.all_eq_true, Bool.not_eq_true', List.contains_eq_mem,
          decide_eq_false_iff_not] at hdis
        exact absurd h2 (hdis _ h1)
    · next hk =>
      have hrq : r ∈ qs := by
        rcases List.mem_cons.mp hr with rfl | hrq
        · simp [hk] at h
        · exact hrq
      exact decodeOn_complete h (fun x hx => hw x (List.mem_cons_of_mem _ hx)) hd.2 hrq

theorem RegMap.wf_iff {m : RegMap} :
    RegMap.wf m = true ↔
      (∀ r, (m r).aligned = true ∧ (m r).noWrap = true) ∧ RegMap.disjointOn m Reg.all = true := by
  simp [RegMap.wf, Reg.mem_all]

theorem Params.wf_iff {p : Params} :
    Params.wf p = true ↔ RegMap.wf p.regMap = true ∧ 1 ≤ p.nSrc ∧ p.nSrc ≤ 192 := by
  simp [Params.wf, and_assoc]

/-- Over a well-formed table the decoder finds every view of every register. -/
theorem decodeAddr_complete {p : Params} (hp : Params.wf p = true) {a : Word} {r : Reg} {k : View}
    (h : viewAt (p.regMap r) a = some k) : decodeAddr p a = some (r, k) := by
  obtain ⟨hall, hdis⟩ := RegMap.wf_iff.mp (Params.wf_iff.mp hp).1
  exact decodeOn_complete h (fun q _ => (hall q).2) hdis (Reg.mem_all r)

theorem decodeAddr_eq_some {p : Params} (hp : Params.wf p = true) {a : Word} {r : Reg} {k : View} :
    decodeAddr p a = some (r, k) ↔
      a = (p.regMap r).base + viewOffset k ∧ (k = .assign ∨ (p.regMap r).aliased = true) :=
  ⟨fun h => viewAt_eq_some.mp (decodeAddr_sound h), fun h => decodeAddr_complete hp (viewAt_eq_some.mpr h)⟩

/-! ### The reference instance (rules R60 to R66) -/

/-- Two aligned descriptors with different bases share no address. -/
theorem RegDesc.disjoint_of_base_ne {d e : RegDesc} (hd : d.aligned = true) (he : e.aligned = true)
    (h : d.base.toNat ≠ e.base.toNat) : d.disjoint e = true := by
  simp only [RegDesc.aligned, beq_iff_eq] at hd he
  have off : ∀ {f : RegDesc} {x : Nat}, x ∈ f.offsets → x < 16 := by
    intro f x hx
    unfold RegDesc.offsets at hx
    split at hx <;> simp at hx <;> omega
  simp only [RegDesc.disjoint, List.all_eq_true, Bool.not_eq_true', List.contains_eq_mem, decide_eq_false_iff_not]
  intro x hx hy
  obtain ⟨i, hi, rfl⟩ := List.mem_map.mp hx
  obtain ⟨j, hj, hij⟩ := List.mem_map.mp hy
  have := off hi
  have := off hj
  omega

theorem RegMap.disjointOn_of_bases {m : RegMap} (ha : ∀ r, (m r).aligned = true) :
    ∀ {rs : List Reg}, (rs.map fun r => (m r).base.toNat).Nodup → RegMap.disjointOn m rs = true
  | [], _ => rfl
  | q :: qs, h => by
    simp only [List.map_cons, List.nodup_cons, List.mem_map, not_exists, not_and] at h
    simp only [RegMap.disjointOn, Bool.and_eq_true, List.all_eq_true]
    exact ⟨fun r hr => RegDesc.disjoint_of_base_ne (ha q) (ha r) fun e => h.1 r hr e.symm,
      RegMap.disjointOn_of_bases ha h.2⟩

theorem refBases_nodup : (Reg.all.map fun r => (refDesc r).base.toNat).Nodup := by
  decide +kernel

theorem refDesc_ok : (Reg.all.all fun r => (refDesc r).aligned && (refDesc r).noWrap) = true := by
  decide +kernel

/-- The reference parameters are well formed. -/
theorem params_wf : Params.wf params = true := by
  have hall : ∀ r, (refDesc r).aligned = true ∧ (refDesc r).noWrap = true := fun r => by
    simpa using List.all_eq_true.mp refDesc_ok r (Reg.mem_all r)
  exact Params.wf_iff.mpr
    ⟨RegMap.wf_iff.mpr ⟨hall, RegMap.disjointOn_of_bases (fun r => (hall r).1) refBases_nodup⟩,
      by decide, by decide⟩

/-! ### The low address bits (rules R54, R55) -/

theorem getLsbD_of_mod_sixteen {b : Word} (hb : b.toNat % 16 = 0) {i : Nat} (hi : i < 4) : b.getLsbD i = false := by
  have := Nat.testBit_mod_two_pow b.toNat 4 i
  simp_all [BitVec.getLsbD]

/-- The base, bits [1:0] and bits [3:2] of a view's address. -/
theorem base_add_viewOffset {b : Word} (hb : b.toNat % 16 = 0) (k : View) :
    (b + viewOffset k) &&& 0xFFFFFFF0#32 = b ∧ (b + viewOffset k).extractLsb' 0 2 = 0#2 ∧
      (b + viewOffset k).extractLsb' 2 2 =
        (match k with | .assign => 0#2 | .clear => 1#2 | .set => 2#2 | .invert => 3#2) := by
  have hv : ∀ i, 4 ≤ i → (viewOffset k).getLsbD i = false := by
    intro i hi
    have : (viewOffset k).toNat < 2 ^ i := Nat.lt_of_lt_of_le (by cases k <;> decide : _ < 2 ^ 4) (Nat.pow_le_pow_right (by decide) hi)
    exact Nat.testBit_lt_two_pow this
  have hor : b + viewOffset k = b ||| viewOffset k := by
    apply BitVec.add_eq_or_of_and_eq_zero
    apply BitVec.eq_of_getLsbD_eq; intro i hi
    by_cases h : i < 4
    · simp [getLsbD_of_mod_sixteen hb h]
    · simp [hv i (by omega)]
  rw [hor]
  refine ⟨?_, ?_, ?_⟩
  · apply BitVec.eq_of_getLsbD_eq; intro i hi
    simp only [BitVec.getLsbD_and, BitVec.getLsbD_or]
    by_cases h : i < 4
    · simp [getLsbD_of_mod_sixteen hb h]; intro; interval_cases i <;> decide
    · have : (0xFFFFFFF0#32).getLsbD i = true := by
        have : 4 ≤ i := by omega
        interval_cases i <;> decide
      simp [hv i (by omega), this]
  · apply BitVec.eq_of_getLsbD_eq; intro i hi
    simp only [BitVec.getLsbD_extractLsb', BitVec.getLsbD_or, getLsbD_of_mod_sixteen hb (show 0 + i < 4 by omega)]
    interval_cases i <;> cases k <;> decide
  · apply BitVec.eq_of_getLsbD_eq; intro i hi
    simp only [BitVec.getLsbD_extractLsb', BitVec.getLsbD_or, getLsbD_of_mod_sixteen hb (show 2 + i < 4 by omega)]
    interval_cases i <;> cases k <;> decide

/-- An address whose bits [1:0] are not 00 is Unmapped (rule R55). -/
theorem decodeAddr_of_unaligned {p : Params} {a : Word} (hp : Params.wf p = true) (h : a.extractLsb' 0 2 ≠ 0#2) :
    decodeAddr p a = none := by
  cases hd : decodeAddr p a with
  | none => rfl
  | some x =>
    obtain ⟨r, k⟩ := x
    obtain ⟨rfl, -⟩ := (decodeAddr_eq_some hp).mp hd
    have hal := ((RegMap.wf_iff.mp (Params.wf_iff.mp hp).1).1 r).1
    exact absurd (base_add_viewOffset (by simpa [RegDesc.aligned] using hal) k).2.1 h

end Sys2Proof.Machine
end

