-- ==== Sys2Proof/Laws/Flags.lean ====
section
/-! SUPPORT. The laws of the flags and of the arbitration scan: what a raised or a cleared flag word holds, what the
scan has found after its first turns, on what it depends, and how INTSTAT unpacks. -/

namespace Sys2Proof.Machine

/-! ### Flag words (rules R34, R150, R151) -/

theorem getLsbD_one_shiftLeft {b j : Nat} (hj : j < 32) :
    (1#32 <<< b).getLsbD j = decide (j = b) := by
  rw [BitVec.getLsbD_shiftLeft, BitVec.getLsbD_one]
  simp only [hj, decide_true, Bool.true_and]
  by_cases h : j = b
  · simp [h]
  · simp [h]; omega

/-- A set write of bit `b` of a flag register sets that bit and no other. -/
theorem getLsbD_or_bit {w : Word} {b j : Nat} (hj : j < 32) :
    (w ||| 1#32 <<< b).getLsbD j = (decide (j = b) || w.getLsbD j) := by
  rw [BitVec.getLsbD_or, getLsbD_one_shiftLeft hj, Bool.or_comm]

/-- A clear write of bit `b` of a flag register clears that bit and no other. -/
theorem getLsbD_and_not_bit {w : Word} {b j : Nat} (hj : j < 32) :
    (w &&& ~~~(1#32 <<< b)).getLsbD j = (!decide (j = b) && w.getLsbD j) := by
  rw [BitVec.getLsbD_and, BitVec.getLsbD_not, getLsbD_one_shiftLeft hj, Bool.and_comm]
  simp [hj]

/-- After the flag word of source `i` is raised, source `i` is pending and every other flag is as it was. -/
theorem flagSet_raised {rf : RegFile} {i j : Nat} (hi : i < 192) (hj : j < 192) :
    flagSet (rf.set (.ifs (flagReg i)) (raisedWord rf i)) j = (decide (j = i) || flagSet rf j) := by
  unfold flagSet raisedWord
  rw [RegFile.get_set]
  split
  · next h =>
    have hr : flagReg j = flagReg i := by simpa using h
    rw [getLsbD_or_bit (flagBit_lt j), hr]
    by_cases e : j = i
    · simp [e]
    · have : flagBit j ≠ flagBit i := fun hb => e (flag_position_inj hj hi hr hb)
      simp [e, this]
  · next h =>
    have : j ≠ i := fun e => h (by rw [e])
    simp [this]

/-- After the flag word of source `i` is cleared, source `i` is not pending and every other flag is as it was. -/
theorem flagSet_cleared {rf : RegFile} {i j : Nat} (hi : i < 192) (hj : j < 192) :
    flagSet (rf.set (.ifs (flagReg i)) (clearedWord rf i)) j = (!decide (j = i) && flagSet rf j) := by
  unfold flagSet clearedWord
  rw [RegFile.get_set]
  split
  · next h =>
    have hr : flagReg j = flagReg i := by simpa using h
    rw [getLsbD_and_not_bit (flagBit_lt j), hr]
    by_cases e : j = i
    · simp [e]
    · have : flagBit j ≠ flagBit i := fun hb => e (flag_position_inj hj hi hr hb)
      simp [e, this]
  · next h =>
    have : j ≠ i := fun e => h (by rw [e])
    simp [this]

@[simp] theorem enableSet_set_ifs (rf : RegFile) (n : Fin 6) (w : Word) (i : Nat) :
    enableSet (rf.set (.ifs n) w) i = enableSet rf i := by
  simp [enableSet, RegFile.get_set]

@[simp] theorem prio_set_ifs (rf : RegFile) (n : Fin 6) (w : Word) (i : Nat) :
    prio (rf.set (.ifs n) w) i = prio rf i := by
  simp [prio, RegFile.get_set]

/-! ### The scan (rules R152, R154, R155) -/

/-- A source that is not pending, not enabled or of no greater priority changes nothing. -/
theorem scanTurn_of_quiet {p : Params} {rf : RegFile} {a : Arb} {i : Nat}
    (h : ¬(flagSet rf i = true ∧ enableSet rf i = true ∧ a.level < prio rf i)) : scanTurn p rf a i = a := by
  unfold scanTurn
  rw [if_neg]
  simpa [and_assoc] using h

/-- A pending, enabled source of strictly greater priority takes over. -/
theorem scanTurn_of_win {p : Params} {rf : RegFile} {a : Arb} {i : Nat}
    (h : flagSet rf i = true ∧ enableSet rf i = true ∧ a.level < prio rf i) :
    scanTurn p rf a i = { level := prio rf i, vector := p.vec i } := by
  unfold scanTurn
  rw [if_pos]
  simpa [and_assoc] using h

theorem level_lt_of_le_of_lt {a b c : Level} (h : a ≤ b) (h' : b < c) : a < c :=
  Nat.lt_of_le_of_lt h h'

/-- What the scan has found among the sources below `n`: no pending, enabled source exceeds the level; and the
level is 0, with vector 0, or that of the lowest-indexed pending, enabled source at it. -/
theorem scanBelow_spec (p : Params) (rf : RegFile) (n : Nat) :
    (∀ j < n, flagSet rf j = true → enableSet rf j = true → prio rf j ≤ (scanBelow p rf n).level) ∧
      (scanBelow p rf n = { level := 0#3, vector := 0#8 } ∨
        ∃ i < n, flagSet rf i = true ∧ enableSet rf i = true ∧ prio rf i ≠ 0#3 ∧
          scanBelow p rf n = { level := prio rf i, vector := p.vec i } ∧
          ∀ j < i, flagSet rf j = true → enableSet rf j = true → prio rf j < prio rf i) := by
  induction n with
  | zero => exact ⟨fun j hj => absurd hj (Nat.not_lt_zero j), .inl rfl⟩
  | succ n ih =>
    obtain ⟨hmax, hwin⟩ := ih
    by_cases h : flagSet rf n = true ∧ enableSet rf n = true ∧ (scanBelow p rf n).level < prio rf n
    · have hs : scanBelow p rf (n + 1) = { level := prio rf n, vector := p.vec n } := scanTurn_of_win h
      rw [hs]
      refine ⟨fun j hj hf he => ?_, .inr ⟨n, Nat.lt_succ_self n, h.1, h.2.1, ?_, rfl, ?_⟩⟩
      · rcases Nat.lt_succ_iff_lt_or_eq.mp hj with hj | rfl
        · exact BitVec.le_of_lt (level_lt_of_le_of_lt (hmax j hj hf he) h.2.2)
        · exact BitVec.le_refl _
      · intro e
        rw [e] at h
        exact absurd h.2.2 (BitVec.not_lt_zero)
      · exact fun j hj hf he => level_lt_of_le_of_lt (hmax j hj hf he) h.2.2
    · have hs : scanBelow p rf (n + 1) = scanBelow p rf n := scanTurn_of_quiet h
      rw [hs]
      refine ⟨fun j hj hf he => ?_, ?_⟩
      · rcases Nat.lt_succ_iff_lt_or_eq.mp hj with hj | rfl
        · exact hmax j hj hf he
        · exact BitVec.not_lt.mp fun hlt => h ⟨hf, he, hlt⟩
      · rcases hwin with h0 | ⟨i, hi, rest⟩
        · exact .inl h0
        · exact .inr ⟨i, Nat.lt_succ_of_lt hi, rest⟩

/-- The scan reads nothing but flags, enables and priorities of the sources it covers. -/
theorem scanBelow_congr {p : Params} {rf rf' : RegFile} {n : Nat}
    (h : ∀ i < n, flagSet rf' i = flagSet rf i ∧ enableSet rf' i = enableSet rf i ∧ prio rf' i = prio rf i) :
    scanBelow p rf' n = scanBelow p rf n := by
  induction n with
  | zero => rfl
  | succ n ih =>
    obtain ⟨hf, he, hp⟩ := h n (Nat.lt_succ_self n)
    simp only [scanBelow, scanTurn, ih fun i hi => h i (Nat.lt_succ_of_lt hi), hf, he, hp]

/-- The arbitration is a function of IFS, IEC and IPC. -/
theorem arbitrate_congr {p : Params} {rf rf' : RegFile} (h : ∀ r, ReadByArbiter r → rf'.get r = rf.get r) :
    arbitrate p rf' = arbitrate p rf :=
  scanBelow_congr fun i _ => by
    simp [flagSet, enableSet, prio, h (.ifs _) trivial, h (.iec _) trivial, h (.ipc _) trivial]

/-- A write to another register leaves the arbitration as it was. -/
theorem arbitrate_set {p : Params} {rf : RegFile} {r : Reg} {v : Word} (h : ¬ReadByArbiter r) :
    arbitrate p (rf.set r v) = arbitrate p rf :=
  arbitrate_congr fun q hq => RegFile.get_set_of_ne (fun e => h (by rwa [← e])) rf v

@[simp] theorem arbitrate_set_intstat (p : Params) (rf : RegFile) (v : Word) :
    arbitrate p (rf.set .intstat v) = arbitrate p rf :=
  arbitrate_set id

/-- With no source asserted among those scanned, the result is level 0 and vector 0. -/
theorem arbitrate_quiet {p : Params} {rf : RegFile}
    (h : ∀ i < p.nSrc, flagSet rf i = true → enableSet rf i = true → prio rf i = 0#3) :
    arbitrate p rf = { level := 0#3, vector := 0#8 } := by
  rcases (scanBelow_spec p rf p.nSrc).2 with h0 | ⟨i, hi, hf, he, hne, -⟩
  · exact h0
  · exact absurd (h i hi hf he) hne

/-! ### INTSTAT (rule R38) -/

theorem packStatus_level (a : Arb) : (packStatus a).extractLsb' 8 3 = a.level := by
  ext i hi
  have h1 : ¬ 8 + i < 8 := by omega
  have h2 : 8 + i < 32 := by omega
  simp [packStatus, h1, h2, hi, BitVec.getLsbD_eq_getElem]

theorem packStatus_vector (a : Arb) : (packStatus a).extractLsb' 0 8 = a.vector := by
  ext i hi
  have h2 : i < 32 := by omega
  simp [packStatus, h2, hi, BitVec.getLsbD_eq_getElem]

theorem packStatus_high (a : Arb) : (packStatus a).extractLsb' 11 21 = 0#21 := by
  ext i hi
  have h1 : 3 ≤ 11 + i - 8 := by omega
  have h2 : ¬ 11 + i < 8 := by omega
  simp [packStatus, h2, BitVec.getLsbD_of_ge, h1, show 8 ≤ 11 + i by omega]

end Sys2Proof.Machine
end

