-- ==== Sys2Proof/Laws/State.lean ====
section
/-! SUPPORT. What each update of the state leaves in each field: one lemma per field per update. -/

namespace Sys2Proof.Machine

/-! ### writeReg -/

@[simp] theorem writeReg_rf (r : Reg) (v : Word) (s : State) : (writeReg r v s).rf = s.rf.set r v := rfl
@[simp] theorem writeReg_seq (r : Reg) (v : Word) (s : State) : (writeReg r v s).seq = s.seq := rfl
@[simp] theorem writeReg_halted (r : Reg) (v : Word) (s : State) : (writeReg r v s).halted = s.halted := rfl
@[simp] theorem writeReg_initialised (r : Reg) (v : Word) (s : State) : (writeReg r v s).initialised = s.initialised := rfl
@[simp] theorem writeReg_response (r : Reg) (v : Word) (s : State) : (writeReg r v s).response = s.response := rfl
@[simp] theorem writeReg_trace (r : Reg) (v : Word) (s : State) : (writeReg r v s).trace = s.trace := rfl
@[simp] theorem writeReg_inbox (r : Reg) (v : Word) (s : State) : (writeReg r v s).inbox = s.inbox := rfl
@[simp] theorem writeReg_irqPending (r : Reg) (v : Word) (s : State) : (writeReg r v s).irqPending = s.irqPending := rfl
@[simp] theorem writeReg_irqScript (r : Reg) (v : Word) (s : State) : (writeReg r v s).irqScript = s.irqScript := rfl
@[simp] theorem writeReg_rxAnswers (r : Reg) (v : Word) (s : State) : (writeReg r v s).rxAnswers = s.rxAnswers := rfl
@[simp] theorem writeReg_staAnswers (r : Reg) (v : Word) (s : State) : (writeReg r v s).staAnswers = s.staAnswers := rfl
@[simp] theorem writeReg_spiAnswers (r : Reg) (v : Word) (s : State) : (writeReg r v s).spiAnswers = s.spiAnswers := rfl
@[simp] theorem writeReg_drawCount (r : Reg) (v : Word) (s : State) : (writeReg r v s).drawCount = s.drawCount := rfl

/-! ### emit -/

@[simp] theorem emit_rf (e : Event) (s : State) : (emit e s).rf = s.rf := rfl
@[simp] theorem emit_seq (e : Event) (s : State) : (emit e s).seq = s.seq := rfl
@[simp] theorem emit_halted (e : Event) (s : State) : (emit e s).halted = s.halted := rfl
@[simp] theorem emit_initialised (e : Event) (s : State) : (emit e s).initialised = s.initialised := rfl
@[simp] theorem emit_response (e : Event) (s : State) : (emit e s).response = s.response := rfl
@[simp] theorem emit_trace (e : Event) (s : State) : (emit e s).trace = s.trace ++ [e] := rfl
@[simp] theorem emit_inbox (e : Event) (s : State) : (emit e s).inbox = s.inbox := rfl
@[simp] theorem emit_irqPending (e : Event) (s : State) : (emit e s).irqPending = s.irqPending := rfl
@[simp] theorem emit_irqScript (e : Event) (s : State) : (emit e s).irqScript = s.irqScript := rfl
@[simp] theorem emit_rxAnswers (e : Event) (s : State) : (emit e s).rxAnswers = s.rxAnswers := rfl
@[simp] theorem emit_staAnswers (e : Event) (s : State) : (emit e s).staAnswers = s.staAnswers := rfl
@[simp] theorem emit_spiAnswers (e : Event) (s : State) : (emit e s).spiAnswers = s.spiAnswers := rfl
@[simp] theorem emit_drawCount (e : Event) (s : State) : (emit e s).drawCount = s.drawCount := rfl

/-! ### respond -/

@[simp] theorem respond_rf (st : Status) (v : Option Word) (n : String) (s : State) : (respond st v n s).rf = s.rf := rfl
@[simp] theorem respond_seq (st : Status) (v : Option Word) (n : String) (s : State) : (respond st v n s).seq = s.seq := rfl
@[simp] theorem respond_halted (st : Status) (v : Option Word) (n : String) (s : State) : (respond st v n s).halted = s.halted := rfl
@[simp] theorem respond_initialised (st : Status) (v : Option Word) (n : String) (s : State) : (respond st v n s).initialised = s.initialised := rfl
@[simp] theorem respond_response (st : Status) (v : Option Word) (n : String) (s : State) : (respond st v n s).response = { status := st, value := v, name := n } := rfl
@[simp] theorem respond_trace (st : Status) (v : Option Word) (n : String) (s : State) : (respond st v n s).trace = s.trace := rfl
@[simp] theorem respond_inbox (st : Status) (v : Option Word) (n : String) (s : State) : (respond st v n s).inbox = s.inbox := rfl
@[simp] theorem respond_irqPending (st : Status) (v : Option Word) (n : String) (s : State) : (respond st v n s).irqPending = s.irqPending := rfl
@[simp] theorem respond_irqScript (st : Status) (v : Option Word) (n : String) (s : State) : (respond st v n s).irqScript = s.irqScript := rfl
@[simp] theorem respond_rxAnswers (st : Status) (v : Option Word) (n : String) (s : State) : (respond st v n s).rxAnswers = s.rxAnswers := rfl
@[simp] theorem respond_staAnswers (st : Status) (v : Option Word) (n : String) (s : State) : (respond st v n s).staAnswers = s.staAnswers := rfl
@[simp] theorem respond_spiAnswers (st : Status) (v : Option Word) (n : String) (s : State) : (respond st v n s).spiAnswers = s.spiAnswers := rfl
@[simp] theorem respond_drawCount (st : Status) (v : Option Word) (n : String) (s : State) : (respond st v n s).drawCount = s.drawCount := rfl

/-! ### respondDone -/

@[simp] theorem respondDone_rf (s : State) : (respondDone s).rf = s.rf := rfl
@[simp] theorem respondDone_seq (s : State) : (respondDone s).seq = s.seq := rfl
@[simp] theorem respondDone_halted (s : State) : (respondDone s).halted = s.halted := rfl
@[simp] theorem respondDone_initialised (s : State) : (respondDone s).initialised = s.initialised := rfl
@[simp] theorem respondDone_response (s : State) : (respondDone s).response = { status := .ok, value := some 0#32, name := "" } := rfl
@[simp] theorem respondDone_trace (s : State) : (respondDone s).trace = s.trace := rfl
@[simp] theorem respondDone_inbox (s : State) : (respondDone s).inbox = s.inbox := rfl
@[simp] theorem respondDone_irqPending (s : State) : (respondDone s).irqPending = s.irqPending := rfl
@[simp] theorem respondDone_irqScript (s : State) : (respondDone s).irqScript = s.irqScript := rfl
@[simp] theorem respondDone_rxAnswers (s : State) : (respondDone s).rxAnswers = s.rxAnswers := rfl
@[simp] theorem respondDone_staAnswers (s : State) : (respondDone s).staAnswers = s.staAnswers := rfl
@[simp] theorem respondDone_spiAnswers (s : State) : (respondDone s).spiAnswers = s.spiAnswers := rfl
@[simp] theorem respondDone_drawCount (s : State) : (respondDone s).drawCount = s.drawCount := rfl

/-! ### callBackend -/

@[simp] theorem callBackend_rf (e : Event) (s : State) : (callBackend e s).rf = s.rf := rfl
@[simp] theorem callBackend_seq (e : Event) (s : State) : (callBackend e s).seq = s.seq := rfl
@[simp] theorem callBackend_halted (e : Event) (s : State) : (callBackend e s).halted = s.halted := rfl
@[simp] theorem callBackend_initialised (e : Event) (s : State) : (callBackend e s).initialised = s.initialised := rfl
@[simp] theorem callBackend_response (e : Event) (s : State) : (callBackend e s).response = s.response := rfl
@[simp] theorem callBackend_trace (e : Event) (s : State) : (callBackend e s).trace = s.trace ++ [e] := rfl
@[simp] theorem callBackend_inbox (e : Event) (s : State) : (callBackend e s).inbox = s.inbox := rfl
@[simp] theorem callBackend_irqPending (e : Event) (s : State) : (callBackend e s).irqPending = s.irqPending ++ s.irqScript.headD [] := rfl
@[simp] theorem callBackend_irqScript (e : Event) (s : State) : (callBackend e s).irqScript = s.irqScript.tail := rfl
@[simp] theorem callBackend_rxAnswers (e : Event) (s : State) : (callBackend e s).rxAnswers = s.rxAnswers := rfl
@[simp] theorem callBackend_staAnswers (e : Event) (s : State) : (callBackend e s).staAnswers = s.staAnswers := rfl
@[simp] theorem callBackend_spiAnswers (e : Event) (s : State) : (callBackend e s).spiAnswers = s.spiAnswers := rfl
@[simp] theorem callBackend_drawCount (e : Event) (s : State) : (callBackend e s).drawCount = s.drawCount := rfl

/-! ### dropRxAnswer -/

@[simp] theorem dropRxAnswer_rf (s : State) : (dropRxAnswer s).rf = s.rf := by
  unfold dropRxAnswer; split <;> simp_all
@[simp] theorem dropRxAnswer_seq (s : State) : (dropRxAnswer s).seq = s.seq := by
  unfold dropRxAnswer; split <;> simp_all
@[simp] theorem dropRxAnswer_halted (s : State) : (dropRxAnswer s).halted = s.halted := by
  unfold dropRxAnswer; split <;> simp_all
@[simp] theorem dropRxAnswer_initialised (s : State) : (dropRxAnswer s).initialised = s.initialised := by
  unfold dropRxAnswer; split <;> simp_all
@[simp] theorem dropRxAnswer_response (s : State) : (dropRxAnswer s).response = s.response := by
  unfold dropRxAnswer; split <;> simp_all
@[simp] theorem dropRxAnswer_trace (s : State) : (dropRxAnswer s).trace = s.trace := by
  unfold dropRxAnswer; split <;> simp_all
@[simp] theorem dropRxAnswer_inbox (s : State) : (dropRxAnswer s).inbox = s.inbox := by
  unfold dropRxAnswer; split <;> simp_all
@[simp] theorem dropRxAnswer_irqPending (s : State) : (dropRxAnswer s).irqPending = s.irqPending := by
  unfold dropRxAnswer; split <;> simp_all
@[simp] theorem dropRxAnswer_irqScript (s : State) : (dropRxAnswer s).irqScript = s.irqScript := by
  unfold dropRxAnswer; split <;> simp_all
@[simp] theorem dropRxAnswer_rxAnswers (s : State) : (dropRxAnswer s).rxAnswers = s.rxAnswers.tail := by
  unfold dropRxAnswer; split <;> simp_all
@[simp] theorem dropRxAnswer_staAnswers (s : State) : (dropRxAnswer s).staAnswers = s.staAnswers := by
  unfold dropRxAnswer; split <;> simp_all
@[simp] theorem dropRxAnswer_spiAnswers (s : State) : (dropRxAnswer s).spiAnswers = s.spiAnswers := by
  unfold dropRxAnswer; split <;> simp_all
@[simp] theorem dropRxAnswer_drawCount (s : State) : (dropRxAnswer s).drawCount = if s.rxAnswers.isEmpty then s.drawCount + 1 else s.drawCount := by
  unfold dropRxAnswer; split <;> simp_all

/-! ### dropStaAnswer -/

@[simp] theorem dropStaAnswer_rf (s : State) : (dropStaAnswer s).rf = s.rf := by
  unfold dropStaAnswer; split <;> simp_all
@[simp] theorem dropStaAnswer_seq (s : State) : (dropStaAnswer s).seq = s.seq := by
  unfold dropStaAnswer; split <;> simp_all
@[simp] theorem dropStaAnswer_halted (s : State) : (dropStaAnswer s).halted = s.halted := by
  unfold dropStaAnswer; split <;> simp_all
@[simp] theorem dropStaAnswer_initialised (s : State) : (dropStaAnswer s).initialised = s.initialised := by
  unfold dropStaAnswer; split <;> simp_all
@[simp] theorem dropStaAnswer_response (s : State) : (dropStaAnswer s).response = s.response := by
  unfold dropStaAnswer; split <;> simp_all
@[simp] theorem dropStaAnswer_trace (s : State) : (dropStaAnswer s).trace = s.trace := by
  unfold dropStaAnswer; split <;> simp_all
@[simp] theorem dropStaAnswer_inbox (s : State) : (dropStaAnswer s).inbox = s.inbox := by
  unfold dropStaAnswer; split <;> simp_all
@[simp] theorem dropStaAnswer_irqPending (s : State) : (dropStaAnswer s).irqPending = s.irqPending := by
  unfold dropStaAnswer; split <;> simp_all
@[simp] theorem dropStaAnswer_irqScript (s : State) : (dropStaAnswer s).irqScript = s.irqScript := by
  unfold dropStaAnswer; split <;> simp_all
@[simp] theorem dropStaAnswer_rxAnswers (s : State) : (dropStaAnswer s).rxAnswers = s.rxAnswers := by
  unfold dropStaAnswer; split <;> simp_all
@[simp] theorem dropStaAnswer_staAnswers (s : State) : (dropStaAnswer s).staAnswers = s.staAnswers.tail := by
  unfold dropStaAnswer; split <;> simp_all
@[simp] theorem dropStaAnswer_spiAnswers (s : State) : (dropStaAnswer s).spiAnswers = s.spiAnswers := by
  unfold dropStaAnswer; split <;> simp_all
@[simp] theorem dropStaAnswer_drawCount (s : State) : (dropStaAnswer s).drawCount = if s.staAnswers.isEmpty then s.drawCount + 1 else s.drawCount := by
  unfold dropStaAnswer; split <;> simp_all

/-! ### dropSpiAnswer -/

@[simp] theorem dropSpiAnswer_rf (s : State) : (dropSpiAnswer s).rf = s.rf := by
  unfold dropSpiAnswer; split <;> simp_all
@[simp] theorem dropSpiAnswer_seq (s : State) : (dropSpiAnswer s).seq = s.seq := by
  unfold dropSpiAnswer; split <;> simp_all
@[simp] theorem dropSpiAnswer_halted (s : State) : (dropSpiAnswer s).halted = s.halted := by
  unfold dropSpiAnswer; split <;> simp_all
@[simp] theorem dropSpiAnswer_initialised (s : State) : (dropSpiAnswer s).initialised = s.initialised := by
  unfold dropSpiAnswer; split <;> simp_all
@[simp] theorem dropSpiAnswer_response (s : State) : (dropSpiAnswer s).response = s.response := by
  unfold dropSpiAnswer; split <;> simp_all
@[simp] theorem dropSpiAnswer_trace (s : State) : (dropSpiAnswer s).trace = s.trace := by
  unfold dropSpiAnswer; split <;> simp_all
@[simp] theorem dropSpiAnswer_inbox (s : State) : (dropSpiAnswer s).inbox = s.inbox := by
  unfold dropSpiAnswer; split <;> simp_all
@[simp] theorem dropSpiAnswer_irqPending (s : State) : (dropSpiAnswer s).irqPending = s.irqPending := by
  unfold dropSpiAnswer; split <;> simp_all
@[simp] theorem dropSpiAnswer_irqScript (s : State) : (dropSpiAnswer s).irqScript = s.irqScript := by
  unfold dropSpiAnswer; split <;> simp_all
@[simp] theorem dropSpiAnswer_rxAnswers (s : State) : (dropSpiAnswer s).rxAnswers = s.rxAnswers := by
  unfold dropSpiAnswer; split <;> simp_all
@[simp] theorem dropSpiAnswer_staAnswers (s : State) : (dropSpiAnswer s).staAnswers = s.staAnswers := by
  unfold dropSpiAnswer; split <;> simp_all
@[simp] theorem dropSpiAnswer_spiAnswers (s : State) : (dropSpiAnswer s).spiAnswers = s.spiAnswers.tail := by
  unfold dropSpiAnswer; split <;> simp_all
@[simp] theorem dropSpiAnswer_drawCount (s : State) : (dropSpiAnswer s).drawCount = if s.spiAnswers.isEmpty then s.drawCount + 1 else s.drawCount := by
  unfold dropSpiAnswer; split <;> simp_all

/-! ### reportReadOnly -/

@[simp] theorem reportReadOnly_rf (a : Word) (n : String) (s : State) : (reportReadOnly a n s).rf = s.rf := rfl
@[simp] theorem reportReadOnly_seq (a : Word) (n : String) (s : State) : (reportReadOnly a n s).seq = s.seq := rfl
@[simp] theorem reportReadOnly_halted (a : Word) (n : String) (s : State) : (reportReadOnly a n s).halted = s.halted := rfl
@[simp] theorem reportReadOnly_initialised (a : Word) (n : String) (s : State) : (reportReadOnly a n s).initialised = s.initialised := rfl
@[simp] theorem reportReadOnly_response (a : Word) (n : String) (s : State) : (reportReadOnly a n s).response = { status := .roViolation, value := some 0#32, name := n } := rfl
@[simp] theorem reportReadOnly_trace (a : Word) (n : String) (s : State) : (reportReadOnly a n s).trace = s.trace ++ [.report .readOnlyViolation a .write n] := rfl
@[simp] theorem reportReadOnly_inbox (a : Word) (n : String) (s : State) : (reportReadOnly a n s).inbox = s.inbox := rfl
@[simp] theorem reportReadOnly_irqPending (a : Word) (n : String) (s : State) : (reportReadOnly a n s).irqPending = s.irqPending := rfl
@[simp] theorem reportReadOnly_irqScript (a : Word) (n : String) (s : State) : (reportReadOnly a n s).irqScript = s.irqScript := rfl
@[simp] theorem reportReadOnly_rxAnswers (a : Word) (n : String) (s : State) : (reportReadOnly a n s).rxAnswers = s.rxAnswers := rfl
@[simp] theorem reportReadOnly_staAnswers (a : Word) (n : String) (s : State) : (reportReadOnly a n s).staAnswers = s.staAnswers := rfl
@[simp] theorem reportReadOnly_spiAnswers (a : Word) (n : String) (s : State) : (reportReadOnly a n s).spiAnswers = s.spiAnswers := rfl
@[simp] theorem reportReadOnly_drawCount (a : Word) (n : String) (s : State) : (reportReadOnly a n s).drawCount = s.drawCount := rfl

/-! ### fatalState -/

@[simp] theorem fatalValue_read : fatalValue .read = none := rfl
@[simp] theorem fatalValue_write : fatalValue .write = some 0#32 := rfl

@[simp] theorem fatalState_rf (a : Word) (d : Dir) (s : State) : (fatalState a d s).rf = s.rf := rfl
@[simp] theorem fatalState_seq (a : Word) (d : Dir) (s : State) : (fatalState a d s).seq = s.seq := rfl
@[simp] theorem fatalState_halted (a : Word) (d : Dir) (s : State) : (fatalState a d s).halted = some { addr := a, dir := d } := rfl
@[simp] theorem fatalState_initialised (a : Word) (d : Dir) (s : State) : (fatalState a d s).initialised = s.initialised := rfl
@[simp] theorem fatalState_response (a : Word) (d : Dir) (s : State) : (fatalState a d s).response = { status := .fatal, value := fatalValue d, name := "" } := rfl
@[simp] theorem fatalState_trace (a : Word) (d : Dir) (s : State) : (fatalState a d s).trace = s.trace ++ [.report .unmappedAddress a d ""] := rfl
@[simp] theorem fatalState_inbox (a : Word) (d : Dir) (s : State) : (fatalState a d s).inbox = s.inbox := rfl
@[simp] theorem fatalState_irqPending (a : Word) (d : Dir) (s : State) : (fatalState a d s).irqPending = s.irqPending := rfl
@[simp] theorem fatalState_irqScript (a : Word) (d : Dir) (s : State) : (fatalState a d s).irqScript = s.irqScript := rfl
@[simp] theorem fatalState_rxAnswers (a : Word) (d : Dir) (s : State) : (fatalState a d s).rxAnswers = s.rxAnswers := rfl
@[simp] theorem fatalState_staAnswers (a : Word) (d : Dir) (s : State) : (fatalState a d s).staAnswers = s.staAnswers := rfl
@[simp] theorem fatalState_spiAnswers (a : Word) (d : Dir) (s : State) : (fatalState a d s).spiAnswers = s.spiAnswers := rfl
@[simp] theorem fatalState_drawCount (a : Word) (d : Dir) (s : State) : (fatalState a d s).drawCount = s.drawCount := rfl

/-! ### recomputeStatus -/

@[simp] theorem recomputeStatus_rf (p : Params) (s : State) : (recomputeStatus p s).rf = s.rf.set .intstat (packStatus (arbitrate p s.rf)) := rfl
@[simp] theorem recomputeStatus_seq (p : Params) (s : State) : (recomputeStatus p s).seq = s.seq := rfl
@[simp] theorem recomputeStatus_halted (p : Params) (s : State) : (recomputeStatus p s).halted = s.halted := rfl
@[simp] theorem recomputeStatus_initialised (p : Params) (s : State) : (recomputeStatus p s).initialised = s.initialised := rfl
@[simp] theorem recomputeStatus_response (p : Params) (s : State) : (recomputeStatus p s).response = s.response := rfl
@[simp] theorem recomputeStatus_trace (p : Params) (s : State) : (recomputeStatus p s).trace = s.trace ++ [.notifyInterrupt (arbitrate p s.rf).level (arbitrate p s.rf).vector] := rfl
@[simp] theorem recomputeStatus_inbox (p : Params) (s : State) : (recomputeStatus p s).inbox = s.inbox := rfl
@[simp] theorem recomputeStatus_irqPending (p : Params) (s : State) : (recomputeStatus p s).irqPending = s.irqPending := rfl
@[simp] theorem recomputeStatus_irqScript (p : Params) (s : State) : (recomputeStatus p s).irqScript = s.irqScript := rfl
@[simp] theorem recomputeStatus_rxAnswers (p : Params) (s : State) : (recomputeStatus p s).rxAnswers = s.rxAnswers := rfl
@[simp] theorem recomputeStatus_staAnswers (p : Params) (s : State) : (recomputeStatus p s).staAnswers = s.staAnswers := rfl
@[simp] theorem recomputeStatus_spiAnswers (p : Params) (s : State) : (recomputeStatus p s).spiAnswers = s.spiAnswers := rfl
@[simp] theorem recomputeStatus_drawCount (p : Params) (s : State) : (recomputeStatus p s).drawCount = s.drawCount := rfl

/-! ### syskeyHook -/

@[simp] theorem syskeyHook_rf (d : Word) (s : State) : (syskeyHook d s).rf = s.rf := rfl
@[simp] theorem syskeyHook_seq (d : Word) (s : State) : (syskeyHook d s).seq = nextSeq s.seq d := rfl
@[simp] theorem syskeyHook_halted (d : Word) (s : State) : (syskeyHook d s).halted = s.halted := rfl
@[simp] theorem syskeyHook_initialised (d : Word) (s : State) : (syskeyHook d s).initialised = s.initialised := rfl
@[simp] theorem syskeyHook_response (d : Word) (s : State) : (syskeyHook d s).response = s.response := rfl
@[simp] theorem syskeyHook_trace (d : Word) (s : State) : (syskeyHook d s).trace = s.trace := rfl
@[simp] theorem syskeyHook_inbox (d : Word) (s : State) : (syskeyHook d s).inbox = s.inbox := rfl
@[simp] theorem syskeyHook_irqPending (d : Word) (s : State) : (syskeyHook d s).irqPending = s.irqPending := rfl
@[simp] theorem syskeyHook_irqScript (d : Word) (s : State) : (syskeyHook d s).irqScript = s.irqScript := rfl
@[simp] theorem syskeyHook_rxAnswers (d : Word) (s : State) : (syskeyHook d s).rxAnswers = s.rxAnswers := rfl
@[simp] theorem syskeyHook_staAnswers (d : Word) (s : State) : (syskeyHook d s).staAnswers = s.staAnswers := rfl
@[simp] theorem syskeyHook_spiAnswers (d : Word) (s : State) : (syskeyHook d s).spiAnswers = s.spiAnswers := rfl
@[simp] theorem syskeyHook_drawCount (d : Word) (s : State) : (syskeyHook d s).drawCount = s.drawCount := rfl

end Sys2Proof.Machine
end

