-- ==== Sys2Proof/Laws/Ops.lean ====
section
/-! SUPPORT. What each shared operation can do, said once: serving a request, the recompute, the reset body, the
hooks and the storage update. -/

namespace Sys2Proof.Machine

/-! ### Serving a request (rules R181, R215) -/

theorem blocked_eq_none {s : State} : blocked s = none ↔ Running s := by
  unfold blocked haltFault Running
  cases s.initialised <;> simp

theorem haltFault_eq_none {s : State} : haltFault s = none ↔ s.initialised = false ∨ s.halted = none := by
  unfold haltFault
  cases s.initialised <;> simp

/-- A running block serves the request. -/
theorem serve_of_running {s : State} (h : Running s) (k : State → Result) : serve s k = k s := by
  unfold serve
  rw [blocked_eq_none.mpr h]

/-- A request that is served was served by a running block. -/
theorem serve_eq_next {s t : State} {k : State → Result} (h : serve s k = .next t) : Running s ∧ k s = .next t := by
  unfold serve at h
  split at h
  · simp at h
  · next hb => exact ⟨blocked_eq_none.mp hb, h⟩

theorem serve_of_halted {s : State} {a : Word} {d : Dir} (hi : s.initialised = true)
    (hh : s.halted = some { addr := a, dir := d }) (k : State → Result) : serve s k = .fault (.halted a d) := by
  simp [serve, blocked, haltFault, hi, hh]

theorem serve_of_uninitialised {s : State} (hi : s.initialised = false) (k : State → Result) :
    serve s k = .fault .uninitialised := by
  simp [serve, blocked, hi]

theorem serveLifecycle_of_ready {s : State} (h : s.initialised = false ∨ s.halted = none) (k : State → Result) :
    serveLifecycle s k = k s := by
  unfold serveLifecycle
  rw [haltFault_eq_none.mpr h]

theorem serveLifecycle_eq_next {s t : State} {k : State → Result} (h : serveLifecycle s k = .next t) :
    (s.initialised = false ∨ s.halted = none) ∧ k s = .next t := by
  unfold serveLifecycle at h
  split at h
  · simp at h
  · next hb => exact ⟨haltFault_eq_none.mp hb, h⟩

theorem serveLifecycle_of_halted {s : State} {a : Word} {d : Dir} (hi : s.initialised = true)
    (hh : s.halted = some { addr := a, dir := d }) (k : State → Result) :
    serveLifecycle s k = .fault (.halted a d) := by
  simp [serveLifecycle, haltFault, hi, hh]

/-! ### The recompute and the reset body (rules R152, R170) -/

/-- The recompute changes INTSTAT and no other register. -/
theorem recomputeStatus_get (p : Params) (s : State) (q : Reg) :
    (recomputeStatus p s).rf.get q = if q = .intstat then packStatus (arbitrate p s.rf) else s.rf.get q := by
  rw [recomputeStatus_rf, RegFile.get_set]

/-- After a recompute INTSTAT is the arbitration result (rule R39). -/
theorem recomputeStatus_consistent (p : Params) (s : State) : StatusConsistent p (recomputeStatus p s) := by
  simp [StatusConsistent]

/-- A write to a register the arbiter does not read, other than INTSTAT, keeps INTSTAT consistent. -/
theorem StatusConsistent.set {p : Params} {s t : State} {r : Reg} {v : Word} (h : StatusConsistent p s)
    (hr : ¬ReadByArbiter r) (hi : r ≠ .intstat) (ht : t.rf = s.rf.set r v) : StatusConsistent p t := by
  unfold StatusConsistent at *
  rw [ht, arbitrate_set hr, RegFile.get_set_of_ne hi.symm, h]

/-- The recompute over a register file without a pending source leaves INTSTAT 0. -/
theorem arbitrate_of_no_flags {p : Params} {rf : RegFile} (h : ∀ n, rf.get (.ifs n) = 0#32) :
    arbitrate p rf = { level := 0#3, vector := 0#8 } :=
  arbitrate_quiet fun i _ hf => by simp [flagSet, h] at hf

/-- The register file the reset body leaves: every register at its reset value, but INTSTAT, which holds the
arbitration result over them (rules R170, R210). -/
theorem resetBody_rf (p : Params) (s : State) :
    (resetBody p s).rf =
      (RegFile.ofFn fun r => (p.regMap r).reset).set .intstat
        (packStatus (arbitrate p (RegFile.ofFn fun r => (p.regMap r).reset))) := rfl

@[simp] theorem resetBody_seq (p : Params) (s : State) : (resetBody p s).seq = .locked := rfl
@[simp] theorem resetBody_halted (p : Params) (s : State) : (resetBody p s).halted = s.halted := rfl
@[simp] theorem resetBody_initialised (p : Params) (s : State) : (resetBody p s).initialised = s.initialised := rfl
@[simp] theorem resetBody_response (p : Params) (s : State) : (resetBody p s).response = s.response := rfl
@[simp] theorem resetBody_inbox (p : Params) (s : State) : (resetBody p s).inbox = s.inbox := rfl
@[simp] theorem resetBody_irqPending (p : Params) (s : State) :
    (resetBody p s).irqPending = s.irqPending ++ s.irqScript.headD [] := rfl
@[simp] theorem resetBody_irqScript (p : Params) (s : State) : (resetBody p s).irqScript = s.irqScript.tail := rfl
@[simp] theorem resetBody_rxAnswers (p : Params) (s : State) : (resetBody p s).rxAnswers = s.rxAnswers := rfl
@[simp] theorem resetBody_staAnswers (p : Params) (s : State) : (resetBody p s).staAnswers = s.staAnswers := rfl
@[simp] theorem resetBody_spiAnswers (p : Params) (s : State) : (resetBody p s).spiAnswers = s.spiAnswers := rfl
@[simp] theorem resetBody_drawCount (p : Params) (s : State) : (resetBody p s).drawCount = s.drawCount := rfl

theorem refArbitrate_reset :
    arbitrate params (RegFile.ofFn fun r => (params.regMap r).reset) = { level := 0#3, vector := 0#8 } :=
  arbitrate_of_no_flags fun n => by
    rw [RegFile.get_ofFn]; rfl

/-- In REF the reset body leaves exactly the reset file: nothing is pending, so INTSTAT is 0 (rule R210). -/
theorem resetBody_ref_rf (s : State) : (resetBody params s).rf = resetFile := by
  rw [resetBody_rf, refArbitrate_reset]
  refine RegFile.ext_get fun q => ?_
  rw [RegFile.get_set]
  split
  · next h => subst h; rfl
  · rfl

theorem resetFile_get (r : Reg) : resetFile.get r = refReset r := RegFile.get_ofFn _ r

theorem resetBody_trace (s : State) :
    (resetBody params s).trace = s.trace ++ [.deviceSoftReset, .notifyInterrupt 0#3 0#8] := by
  simp only [resetBody, recomputeStatus_trace, callBackend_trace, callBackend_rf, refArbitrate_reset,
    List.append_assoc, List.cons_append, List.nil_append]

/-- Everything the reset body does in REF (rules R170, R210). -/
theorem resetBody_ref (s : State) :
    resetBody params s =
      { s with
        rf := resetFile
        seq := .locked
        trace := s.trace ++ [.deviceSoftReset, .notifyInterrupt 0#3 0#8]
        irqPending := s.irqPending ++ s.irqScript.headD []
        irqScript := s.irqScript.tail } := by
  rw [← resetBody_ref_rf s, ← resetBody_trace s]
  rfl

/-- Everything RESET and INIT do in REF (rules R170, R171). -/
theorem lifecycleReset_ref (s : State) :
    lifecycleReset params s =
      { s with
        rf := resetFile
        seq := .locked
        halted := none
        initialised := true
        trace := s.trace ++ [.deviceSoftReset, .notifyInterrupt 0#3 0#8]
        irqPending := s.irqPending ++ s.irqScript.headD []
        irqScript := s.irqScript.tail
        response := doneResponse } := by
  rw [lifecycleReset, resetBody_ref]
  rfl

/-- The outputs after a recompute are the arbitration result (rules R42, R156). -/
theorem recomputeStatus_outputs (p : Params) (s : State) :
    irqLevel (recomputeStatus p s) = (arbitrate p s.rf).level ∧
      irqVector (recomputeStatus p s) = (arbitrate p s.rf).vector := by
  simp [irqLevel, irqVector, packStatus_level, packStatus_vector]

/-! ### The hooks (rules R124, R125, R127 to R129) -/

/-- All that a read hook can do to the register file: nothing, or store an answer in its own UART register. -/
theorem readHook_rf (p : Params) (r : Reg) (s : State) :
    (readHook p r s).2.rf = s.rf ∨
      (∃ u b, (p.regMap r).rhook = .uartRx u ∧ (readHook p r s).2.rf = s.rf.set (.urxreg u) (receivedWord b)) ∨
      (∃ u w, (p.regMap r).rhook = .uartSta u ∧ (readHook p r s).2.rf = s.rf.set (.usta u) w) := by
  unfold readHook
  split
  · exact .inl rfl
  · next u hu =>
    unfold uartRxHook
    cases rxAnswer s with
    | none => exact .inl (by simp)
    | some b => exact .inr (.inl ⟨u, b, hu, by simp⟩)
  · next u hu =>
    unfold uartStaHook
    cases staAnswer s with
    | none => exact .inl (by simp)
    | some w => exact .inr (.inr ⟨u, w, hu, by simp⟩)
  · exact .inl (by simp [spiBufRdHook])

/-- A read hook leaves the sequencer, the latch, the initialised bit, the response and the inbox alone. -/
theorem readHook_keeps (p : Params) (r : Reg) (s : State) :
    (readHook p r s).2.seq = s.seq ∧ (readHook p r s).2.halted = s.halted ∧
      (readHook p r s).2.initialised = s.initialised ∧ (readHook p r s).2.response = s.response ∧
      (readHook p r s).2.inbox = s.inbox := by
  unfold readHook
  split
  · simp
  · unfold uartRxHook; cases rxAnswer s <;> simp
  · unfold uartStaHook; cases staAnswer s <;> simp
  · simp [spiBufRdHook]

/-- All that a write hook can do to the register file: nothing, the recompute, or the soft reset. -/
theorem writeHook_rf (p : Params) (r : Reg) (d : Word) (s : State) :
    (writeHook p r d s).rf = s.rf ∨
      ((p.regMap r).whook = .irqRecompute ∧ writeHook p r d s = recomputeStatus p s) ∨
      ((p.regMap r).whook = .rswrst ∧ writeHook p r d s = resetBody p s) := by
  unfold writeHook
  split
  · exact .inl rfl
  · next h => exact .inr (.inl ⟨h, rfl⟩)
  · exact .inl rfl
  · next h =>
    unfold rswrstHook
    split
    · exact .inr (.inr ⟨h, rfl⟩)
    · exact .inl rfl
  all_goals exact .inl rfl

/-- A write hook leaves the latch, the initialised bit, the response and the inbox alone. -/
theorem writeHook_keeps (p : Params) (r : Reg) (d : Word) (s : State) :
    (writeHook p r d s).halted = s.halted ∧ (writeHook p r d s).initialised = s.initialised ∧
      (writeHook p r d s).response = s.response ∧ (writeHook p r d s).inbox = s.inbox := by
  unfold writeHook
  split <;> try simp
  unfold rswrstHook
  split <;> simp [softReset]

/-- All that a write hook can do to the sequencer (rules R130, R133). -/
theorem writeHook_seq (p : Params) (r : Reg) (d : Word) (s : State) :
    (writeHook p r d s).seq = s.seq ∨
      ((p.regMap r).whook = .syskey ∧ (writeHook p r d s).seq = nextSeq s.seq d) ∨
      ((p.regMap r).whook = .rswrst ∧ writeHook p r d s = resetBody p s) := by
  unfold writeHook
  split
  · exact .inl rfl
  · exact .inl rfl
  · next h => exact .inr (.inl ⟨h, rfl⟩)
  · next h =>
    unfold rswrstHook
    split
    · exact .inr (.inr ⟨h, rfl⟩)
    · exact .inl rfl
  all_goals exact .inl rfl

/-! ### A decoded write (rule R104) -/

/-- The events of a read hook: its own backend call, never a notification or a report. -/
theorem readHook_events (p : Params) (r : Reg) (s : State) :
    ∃ es, (readHook p r s).2.trace = s.trace ++ es ∧
      ∀ e ∈ es, (∀ l v, e ≠ .notifyInterrupt l v) ∧ ∀ c a d n, e ≠ .report c a d n := by
  unfold readHook
  split
  · exact ⟨[], by simp⟩
  · next u _ => refine ⟨[.uartPollReceive u (rxAnswer s)], ?_⟩; unfold uartRxHook; cases rxAnswer s <;> simp
  · next u _ => refine ⟨[.uartPollStatus u (staAnswer s)], ?_⟩; unfold uartStaHook; cases staAnswer s <;> simp
  · next c _ => exact ⟨[.spiReadBuffer c (spiAnswer s)], by simp [spiBufRdHook]⟩

/-- The events of a write hook: it is a recompute, or the reset body, or it leaves the register file and neither
notifies nor reports. -/
theorem writeHook_events (p : Params) (r : Reg) (d : Word) (s : State) :
    (∃ es, (writeHook p r d s).trace = s.trace ++ es ∧ (writeHook p r d s).rf = s.rf ∧
      ∀ e ∈ es, (∀ l v, e ≠ .notifyInterrupt l v) ∧ ∀ c a d n, e ≠ .report c a d n) ∨
    writeHook p r d s = recomputeStatus p s ∨ writeHook p r d s = resetBody p s := by
  unfold writeHook
  split
  · exact .inl ⟨[], by simp⟩
  · exact .inr (.inl rfl)
  · exact .inl ⟨[], by simp⟩
  · unfold rswrstHook; split
    · exact .inr (.inr rfl)
    · exact .inl ⟨[], by simp⟩
  all_goals exact .inl ⟨[_], rfl, rfl, by simp⟩

/-- A write hook draws no answer. -/
theorem writeHook_draws (p : Params) (r : Reg) (d : Word) (s : State) :
    (writeHook p r d s).rxAnswers = s.rxAnswers ∧ (writeHook p r d s).staAnswers = s.staAnswers ∧
      (writeHook p r d s).spiAnswers = s.spiAnswers ∧ (writeHook p r d s).drawCount = s.drawCount := by
  unfold writeHook
  split <;> try simp
  unfold rswrstHook
  split <;> simp [softReset]

/-- The storage update writes the merged value where the register is stored, and nothing else. -/
theorem storeWrite_get (p : Params) (r : Reg) (k : View) (d : Word) (s : State) (q : Reg) :
    (storeWrite p r k d s).rf.get q =
      if q = r ∧ (p.regMap r).stored = true then mergeWrite (p.regMap r).roMask k (s.rf.get r) d
      else s.rf.get q := by
  unfold storeWrite
  cases h : (p.regMap r).stored <;> simp [RegFile.get_set, readReg]

/-- The storage update leaves everything but the register file alone. -/
theorem storeWrite_keeps (p : Params) (r : Reg) (k : View) (d : Word) (s : State) :
    (storeWrite p r k d s).seq = s.seq ∧ (storeWrite p r k d s).halted = s.halted ∧
      (storeWrite p r k d s).initialised = s.initialised ∧ (storeWrite p r k d s).response = s.response ∧
      (storeWrite p r k d s).trace = s.trace ∧ (storeWrite p r k d s).inbox = s.inbox ∧
      (storeWrite p r k d s).irqPending = s.irqPending ∧ (storeWrite p r k d s).irqScript = s.irqScript ∧
      (storeWrite p r k d s).rxAnswers = s.rxAnswers ∧ (storeWrite p r k d s).staAnswers = s.staAnswers ∧
      (storeWrite p r k d s).spiAnswers = s.spiAnswers ∧ (storeWrite p r k d s).drawCount = s.drawCount := by
  unfold storeWrite
  split <;> simp

/-- A permitted write is the storage update, then the hook, then the response OK. -/
theorem writeDecoded_permitted {p : Params} {r : Reg} (h : (p.regMap r).ro = false) (a : Word) (k : View) (d : Word)
    (s : State) :
    writeDecoded p a r k d s =
      respond .ok (some 0#32) (symbolicName p r k) (writeHook p r d (storeWrite p r k d s)) := by
  simp [writeDecoded, h]

/-- A write to a read-only register is the report. -/
theorem writeDecoded_readOnly {p : Params} {r : Reg} (h : (p.regMap r).ro = true) (a : Word) (k : View) (d : Word)
    (s : State) : writeDecoded p a r k d s = reportReadOnly a (symbolicName p r k) s := by
  simp [writeDecoded, h]

end Sys2Proof.Machine
end

