-- ==== Sys2Proof/Laws/Step.lean ====
section
/-! SUPPORT. What an instruction and a step can do, said once: the inversion of every pipeline, of exec and of
step when they answer a next state. -/

namespace Sys2Proof.Machine

/-- A read pipeline that answers has decoded the address. -/
theorem readPipeline_eq_next {p : Params} {a : Word} {s t : State} (h : readPipeline p a s = .next t) :
    ∃ r k, decodeAddr p a = some (r, k) ∧
      t = respond .ok (some (readHook p r s).1) (symbolicName p r k) (readHook p r s).2 := by
  unfold readPipeline at h
  split at h
  · simp [raiseFatal] at h
  · next r k hd => exact ⟨r, k, hd, by simpa using h.symm⟩

/-- A write pipeline that answers has decoded the address. -/
theorem writePipeline_eq_next {p : Params} {a d : Word} {s t : State} (h : writePipeline p a d s = .next t) :
    ∃ r k, decodeAddr p a = some (r, k) ∧ t = writeDecoded p a r k d s := by
  unfold writePipeline at h
  split at h
  · simp [raiseFatal] at h
  · next r k hd => exact ⟨r, k, hd, by simpa using h.symm⟩

theorem irqRaise_eq_next {p : Params} {i : Word} {s t : State} (h : irqRaise p i s = .next t) :
    i.toNat < p.nSrc ∧ t = respondDone (raiseFlag p i.toNat s) := by
  unfold irqRaise at h
  split at h
  · simp [refuse] at h
  · next hi => exact ⟨Nat.lt_of_not_le hi, by simpa using h.symm⟩

theorem irqClear_eq_next {p : Params} {i : Word} {s t : State} (h : irqClear p i s = .next t) :
    i.toNat < p.nSrc ∧ t = respondDone (clearFlag p i.toNat s) := by
  unfold irqClear at h
  split at h
  · simp [refuse] at h
  · next hi => exact ⟨Nat.lt_of_not_le hi, by simpa using h.symm⟩

/-- The four WRITE32 instructions run one pipeline. -/
theorem exec_write (a d : Word) (s : State) :
    exec (.writeAssign a d) s = serve s (writePipeline params a d) ∧
      exec (.writeClr a d) s = serve s (writePipeline params a d) ∧
      exec (.writeSet a d) s = serve s (writePipeline params a d) ∧
      exec (.writeInv a d) s = serve s (writePipeline params a d) :=
  ⟨rfl, rfl, rfl, rfl⟩

/-- All that an instruction can do when it answers a next state. -/
theorem exec_cases {i : Instr} {s t : State} (h : exec i s = .next t) :
    (Running s ∧ ∃ a r k, i = .read32 a ∧ decodeAddr params a = some (r, k) ∧
      t = respond .ok (some (readHook params r s).1) (symbolicName params r k) (readHook params r s).2) ∨
    (Running s ∧ ∃ a d r k, (i = .writeAssign a d ∨ i = .writeClr a d ∨ i = .writeSet a d ∨ i = .writeInv a d) ∧
      decodeAddr params a = some (r, k) ∧ t = writeDecoded params a r k d s) ∨
    (Running s ∧ ∃ x, i = .irqRaise x ∧ x.toNat < 192 ∧ t = respondDone (raiseFlag params x.toNat s)) ∨
    (Running s ∧ ∃ x, i = .irqClear x ∧ x.toNat < 192 ∧ t = respondDone (clearFlag params x.toNat s)) ∨
    ((s.initialised = false ∨ s.halted = none) ∧ (i = .reset ∨ ∃ x, i = .init x) ∧
      t = lifecycleReset params s) := by
  have write {a d : Word} (h : serve s (writePipeline params a d) = .next t) :
      Running s ∧ ∃ r k, decodeAddr params a = some (r, k) ∧ t = writeDecoded params a r k d s := by
    obtain ⟨hr, hw⟩ := serve_eq_next h
    exact ⟨hr, writePipeline_eq_next hw⟩
  cases i with
  | read32 a =>
    obtain ⟨hr, hp⟩ := serve_eq_next h
    obtain ⟨r, k, hd, rfl⟩ := readPipeline_eq_next hp
    exact .inl ⟨hr, a, r, k, rfl, hd, rfl⟩
  | writeAssign a d =>
    obtain ⟨hr, r, k, hd, ht⟩ := write h
    exact .inr (.inl ⟨hr, a, d, r, k, .inl rfl, hd, ht⟩)
  | writeClr a d =>
    obtain ⟨hr, r, k, hd, ht⟩ := write h
    exact .inr (.inl ⟨hr, a, d, r, k, .inr (.inl rfl), hd, ht⟩)
  | writeSet a d =>
    obtain ⟨hr, r, k, hd, ht⟩ := write h
    exact .inr (.inl ⟨hr, a, d, r, k, .inr (.inr (.inl rfl)), hd, ht⟩)
  | writeInv a d =>
    obtain ⟨hr, r, k, hd, ht⟩ := write h
    exact .inr (.inl ⟨hr, a, d, r, k, .inr (.inr (.inr rfl)), hd, ht⟩)
  | irqRaise x =>
    obtain ⟨hr, hi⟩ := serve_eq_next h
    exact .inr (.inr (.inl ⟨hr, x, rfl, irqRaise_eq_next hi⟩))
  | irqClear x =>
    obtain ⟨hr, hi⟩ := serve_eq_next h
    exact .inr (.inr (.inr (.inl ⟨hr, x, rfl, irqClear_eq_next hi⟩)))
  | reset =>
    simp only [exec, execReset] at h
    obtain ⟨hr, ht⟩ := serveLifecycle_eq_next h
    exact .inr (.inr (.inr (.inr ⟨hr, .inl rfl, by simpa [lifecycleResult] using ht.symm⟩)))
  | init x =>
    simp only [exec, execInit] at h
    obtain ⟨hr, ht⟩ := serveLifecycle_eq_next h
    exact .inr (.inr (.inr (.inr ⟨hr, .inr ⟨x, rfl⟩, by simpa [lifecycleResult] using ht.symm⟩)))

/-- All that a step can do when it answers a next state: nothing at all when no request waits, else the instruction
that the next request decodes to, on the state without that request. -/
theorem step_cases {s t : State} (h : step s = .next t) :
    (nextInbound s = none ∧ t = s) ∨
      ∃ q s' i, nextInbound s = some (.request q, s') ∧ decode q = .ok i ∧ exec i s' = .next t := by
  unfold step stepOnce at h
  split at h
  · next x s' hx =>
    cases x with
    | subWordAccess a d =>
      simp only [serveInbound] at h
      exact absurd (serve_eq_next h).2 (by simp [refuse])
    | request q =>
      refine .inr ⟨q, s', ?_⟩
      simp only [serveInbound, serveRequest] at h
      split at h
      · next i hi => exact ⟨i, hx, hi, h⟩
      · next e _ =>
        simp only [serveReject] at h
        cases e with
        | unaligned a d => exact absurd (serve_eq_next h).2 (by simp [raiseFatal])
        | reservedKind kd => exact absurd (serve_eq_next h).2 (by simp [refuse])
  · next hx =>
    refine .inl ⟨hx, ?_⟩
    unfold idle at h
    split at h
    · simp at h
    · simpa using h.symm

/-- Taking the next request off its queue changes nothing else of the state. -/
theorem nextInbound_keeps {s s' : State} {x : Inbound} (h : nextInbound s = some (x, s')) :
    s'.rf = s.rf ∧ s'.seq = s.seq ∧ s'.halted = s.halted ∧ s'.initialised = s.initialised ∧
      s'.response = s.response ∧ s'.trace = s.trace ∧ s'.irqScript = s.irqScript ∧ s'.rxAnswers = s.rxAnswers ∧
      s'.staAnswers = s.staAnswers ∧ s'.spiAnswers = s.spiAnswers ∧ s'.drawCount = s.drawCount := by
  unfold nextInbound at h
  split at h
  · obtain ⟨-, rfl⟩ := by simpa using h
    simp
  · split at h
    · obtain ⟨-, rfl⟩ := by simpa using h
      simp
    · simp at h

end Sys2Proof.Machine
end

