-- ==== Sys2Proof/Laws/Access.lean ====
section
/-! SUPPORT. Bus requests to a view of a register of REF: they decode, so on a running block they complete. -/

namespace Sys2Proof.Machine

theorem viewAddr_decodes {r : Reg} {k : View} (h : HasView r k) :
    decodeAddr params (viewAddr r k) = some (r, k) :=
  (decodeAddr_eq_some params_wf).mpr ⟨rfl, h⟩

/-- An address that decodes is the address of the view it decodes to. -/
theorem eq_viewAddr_of_decodes {a : Word} {r : Reg} {k : View} (h : decodeAddr params a = some (r, k)) :
    a = viewAddr r k ∧ HasView r k :=
  (decodeAddr_eq_some params_wf).mp h

theorem exec_writeInstr (k : View) (a d : Word) (s : State) :
    exec (writeInstr k a d) s = serve s (writePipeline params a d) := by
  cases k <;> rfl

/-- A WRITE32 to a view of a register completes with the decoded write. -/
theorem exec_write_view {s : State} {r : Reg} {k : View} (h : HasView r k) (hs : Running s) (d : Word) :
    exec (writeInstr k (viewAddr r k) d) s = .next (writeDecoded params (viewAddr r k) r k d s) := by
  rw [exec_writeInstr, serve_of_running hs, writePipeline, viewAddr_decodes h]

/-- A READ32 of a view of a register completes with the read hook's value. -/
theorem exec_read_view {s : State} {r : Reg} {k : View} (h : HasView r k) (hs : Running s) :
    exec (.read32 (viewAddr r k)) s =
      .next (respond .ok (some (readHook params r s).1) (symbolicName params r k) (readHook params r s).2) := by
  show serve s (readPipeline params (viewAddr r k)) = _
  rw [serve_of_running hs, readPipeline, viewAddr_decodes h]

theorem writeInstr_inj {k k' : View} {a a' d d' : Word} (h : writeInstr k a d = writeInstr k' a' d') :
    k = k' ∧ a = a' ∧ d = d' := by
  cases k <;> cases k' <;> simp_all [writeInstr]

/-- A WRITE32 is no other request. -/
theorem writeInstr_ne (k : View) (a d : Word) :
    (∀ x, writeInstr k a d ≠ .read32 x) ∧ (∀ x, writeInstr k a d ≠ .irqRaise x) ∧
      (∀ x, writeInstr k a d ≠ .irqClear x) ∧ writeInstr k a d ≠ .reset ∧ ∀ x, writeInstr k a d ≠ .init x := by
  cases k <;> simp [writeInstr]

/-- IRQ_RAISE of a source in range completes. -/
theorem exec_irqRaise_of_lt {s : State} {x : Word} (hs : Running s) (hx : x.toNat < params.nSrc) :
    exec (.irqRaise x) s = .next (respondDone (raiseFlag params x.toNat s)) := by
  show serve s (irqRaise params x) = _
  rw [serve_of_running hs, irqRaise, if_neg (Nat.not_le.mpr hx)]

/-- IRQ_CLEAR of a source in range completes. -/
theorem exec_irqClear_of_lt {s : State} {x : Word} (hs : Running s) (hx : x.toNat < params.nSrc) :
    exec (.irqClear x) s = .next (respondDone (clearFlag params x.toNat s)) := by
  show serve s (irqClear params x) = _
  rw [serve_of_running hs, irqClear, if_neg (Nat.not_le.mpr hx)]

end Sys2Proof.Machine
end

