-- ==== Sys2Proof/Laws/PerInstr.lean ====
section
/-! SUPPORT. Per instruction: an encoded well-formed instruction carries the key of its own row of the opcode map
(rule R85). -/

namespace Sys2Proof.Laws.OpcodeRow

open Machine (Request)

/-- The key of the encoded instruction selects the instruction's own row. -/
def Statement (i : Instr) : Prop :=
  i.wf = true → opcodeOfKey (requestKey (encode i)) = some (opcodeOf i)

/-- The two low address bits are the two low bits of the four in the key. -/
theorem low_two_of_four (a : Word) : (a.extractLsb' 0 4).extractLsb' 0 2 = a.extractLsb' 0 2 := by
  ext i hi
  simp only [BitVec.getElem_extractLsb', BitVec.getLsbD_extractLsb']
  simp; omega

/-- A READ32's key is kind 000 over any view and aligned low bits. -/
theorem key_of_aligned_read {a : Word} (h : a.extractLsb' 0 2 = 0#2) :
    opcodeOfKey (0b000#3 ++ a.extractLsb' 0 4) = some .read32 := by
  have all : ∀ x : BitVec 4, x.extractLsb' 0 2 = 0#2 → opcodeOfKey (0b000#3 ++ x) = some .read32 := by decide
  exact all _ (by rw [low_two_of_four, h])

/-- A key of kind 010 to 101 selects its instruction whatever `addr[3:0]` is. -/
theorem key_of_kind (x : BitVec 4) :
    opcodeOfKey (0b010#3 ++ x) = some .irqRaise ∧ opcodeOfKey (0b011#3 ++ x) = some .irqClear ∧
      opcodeOfKey (0b100#3 ++ x) = some .reset ∧ opcodeOfKey (0b101#3 ++ x) = some .init := by
  revert x
  decide

theorem read32 (addr : Word) : Statement (.read32 addr) := by
  intro h
  have hk : addr.extractLsb' 0 2 = 0#2 := by simpa [Instr.wf] using h
  exact key_of_aligned_read hk

theorem writeAssign (addr data : Word) : Statement (.writeAssign addr data) := by
  intro h
  have hk : addr.extractLsb' 0 4 = 0x0#4 := by simpa [Instr.wf] using h
  simp only [encode, requestKey, opcodeOf, hk]
  decide

theorem writeClr (addr data : Word) : Statement (.writeClr addr data) := by
  intro h
  have hk : addr.extractLsb' 0 4 = 0x4#4 := by simpa [Instr.wf] using h
  simp only [encode, requestKey, opcodeOf, hk]
  decide

theorem writeSet (addr data : Word) : Statement (.writeSet addr data) := by
  intro h
  have hk : addr.extractLsb' 0 4 = 0x8#4 := by simpa [Instr.wf] using h
  simp only [encode, requestKey, opcodeOf, hk]
  decide

theorem writeInv (addr data : Word) : Statement (.writeInv addr data) := by
  intro h
  have hk : addr.extractLsb' 0 4 = 0xC#4 := by simpa [Instr.wf] using h
  simp only [encode, requestKey, opcodeOf, hk]
  decide

theorem irqRaise (index : Word) : Statement (.irqRaise index) := fun _ => (key_of_kind _).1

theorem irqClear (index : Word) : Statement (.irqClear index) := fun _ => (key_of_kind _).2.1

theorem reset : Statement .reset := fun _ => (key_of_kind _).2.2.1

theorem init (handle : Word) : Statement (.init handle) := fun _ => (key_of_kind _).2.2.2

end Sys2Proof.Laws.OpcodeRow
end

