-- ==== Sys2Proof/Laws/Decode.lean ====
section
/-! SUPPORT. The laws of the decoder: what each key of the opcode map means, and that the record's packing loses
nothing. -/

namespace Sys2Proof

open Machine (Request)

/-- Packing a record into 67 bits and unpacking it gives it back (rule R80). -/
theorem Machine.Request.ofBits_toBits (q : Request) : Request.ofBits q.toBits = q := by
  obtain ⟨k, a, d⟩ := q
  simp only [Request.ofBits, Request.toBits, Request.mk.injEq]
  refine ⟨?_, ?_, ?_⟩ <;>
    · apply BitVec.eq_of_getLsbD_eq
      intro i hi
      simp only [BitVec.getLsbD_extractLsb', BitVec.getLsbD_append]
      have h1 : 64 + i - 32 - 32 = i := by omega
      have h2 : 32 + i - 32 = i := by omega
      grind

/-- The opcode a key selects, with what selecting it says of the key: all 128 keys. -/
theorem opcodeOfKey_cases (kind : BitVec 3) (low : BitVec 4) :
    opcodeOfKey (kind ++ low) =
      if kind = 0b000#3 ∧ low.extractLsb' 0 2 = 0#2 then some .read32
      else if kind = 0b001#3 ∧ low = 0x0#4 then some .writeAssign
      else if kind = 0b001#3 ∧ low = 0x4#4 then some .writeClr
      else if kind = 0b001#3 ∧ low = 0x8#4 then some .writeSet
      else if kind = 0b001#3 ∧ low = 0xC#4 then some .writeInv
      else if kind = 0b010#3 then some .irqRaise
      else if kind = 0b011#3 then some .irqClear
      else if kind = 0b100#3 then some .reset
      else if kind = 0b101#3 then some .init
      else none := by
  revert kind low
  decide

end Sys2Proof
end

