-- ==== Sys2Proof/Machine/Text.lean ====
section
/-! DEFINITION. The textual syntax of requests and responses (rule R90) and the pseudo-requests with their
expansions (rule R91). Nothing here changes what a request does. -/

namespace Sys2Proof.Machine

/-- The pseudo-requests of rule R91. -/
inductive Pseudo where
  | unlock
  | lock
  | softreset
  | irqEnable (i : Nat)
  | irqDisable (i : Nat)
  | irqSetflag (i : Nat)
  | irqClrflag (i : Nat)
  | irqPrio (i : Nat) (level : Level)
deriving DecidableEq, Repr

/-- The base address of a register. -/
def baseOf (p : Params) (r : Reg) : Word :=
  (p.regMap r).base

/-- The bit of source `i` as a bus datum, `1 << flag_bit(i)`. -/
def flagDatum (i : Nat) : Word :=
  1#32 <<< flagBit i

/-- The three SYSKEY writes of `unlock`: the first leaves Locked whatever the state was (rule R91). -/
def unlockWrites (p : Params) : List Instr :=
  [ .writeAssign (baseOf p .syskey) 0x00000000#32,
    .writeAssign (baseOf p .syskey) 0xAA996655#32,
    .writeAssign (baseOf p .syskey) 0x556699AA#32 ]

/-- The requests a pseudo-request stands for, in order (rule R91). For an index from 192 up the rule names no
register: the expansion is that of the register `flagReg` or `ipcReg` wraps to, DESIGN CHOICE, unsafe there (log
entry 19). -/
def Pseudo.expand (p : Params) : Pseudo → List Instr
  | .unlock => unlockWrites p
  | .lock => [.writeAssign (baseOf p .syskey) 0x00000000#32]
  | .softreset => unlockWrites p ++ [.writeAssign (baseOf p .rswrst) 0x00000001#32]
  | .irqEnable i => [.writeSet (baseOf p (.iec (flagReg i)) + viewOffset .set) (flagDatum i)]
  | .irqDisable i => [.writeClr (baseOf p (.iec (flagReg i)) + viewOffset .clear) (flagDatum i)]
  | .irqSetflag i => [.writeSet (baseOf p (.ifs (flagReg i)) + viewOffset .set) (flagDatum i)]
  | .irqClrflag i => [.writeClr (baseOf p (.ifs (flagReg i)) + viewOffset .clear) (flagDatum i)]
  | .irqPrio i level =>
    [ .writeClr (baseOf p (.ipc (ipcReg i)) + viewOffset .clear) (7#32 <<< ipcShift i),
      .writeSet (baseOf p (.ipc (ipcReg i)) + viewOffset .set) (level.setWidth 32 <<< ipcShift i) ]

/-- One hexadecimal digit. -/
def digitText (d : BitVec 4) : String :=
  ["0", "1", "2", "3", "4", "5", "6", "7", "8", "9", "A", "B", "C", "D", "E", "F"].getD d.toNat ""

/-- A number of the syntax, in hexadecimal with all eight digits (rules R11, R90). -/
def numberText (w : Word) : String :=
  "0x" ++ digitText (w.extractLsb' 28 4) ++ digitText (w.extractLsb' 24 4) ++ digitText (w.extractLsb' 20 4)
    ++ digitText (w.extractLsb' 16 4) ++ digitText (w.extractLsb' 12 4) ++ digitText (w.extractLsb' 8 4)
    ++ digitText (w.extractLsb' 4 4) ++ digitText (w.extractLsb' 0 4)

/-- An address of the syntax: the symbolic name where it decodes, else the number (rules R52, R90). -/
def addressText (p : Params) (addr : Word) : String :=
  match decodeAddr p addr with
  | some (r, k) => symbolicName p r k
  | none => numberText addr

/-- The textual syntax of a request (rule R90). -/
def requestText (p : Params) : Instr → String
  | .read32 addr => "rd " ++ addressText p addr
  | .writeAssign addr data => "wr " ++ addressText p addr ++ ", " ++ numberText data
  | .writeClr addr data => "wr " ++ addressText p addr ++ ", " ++ numberText data
  | .writeSet addr data => "wr " ++ addressText p addr ++ ", " ++ numberText data
  | .writeInv addr data => "wr " ++ addressText p addr ++ ", " ++ numberText data
  | .irqRaise index => "irq.raise " ++ toString index.toNat
  | .irqClear index => "irq.clear " ++ toString index.toNat
  | .reset => "reset"
  | .init handle => "init " ++ toString handle.toNat

/-- The textual form of the response to an access: the value of a read, nothing for a write that completes
normally, RO or FATAL (rule R90). -/
def responseText (dir : Dir) (r : Response) : String :=
  match r.status with
  | .ok =>
    match dir, r.value with
    | .read, some v => "-> " ++ numberText v
    | _, _ => ""
  | .roViolation => "-> RO"
  | .fatal => "-> FATAL"

end Sys2Proof.Machine
end

