-- ==== Sys2Proof/Tests/Slice0.lean ====
section
/-! SUPPORT. The tests: words written out from the spec's encoding tables, ill-formed terms the checks refuse, the
spec's own test vectors (file 95_test_vectors.md), and for each obligation with hypotheses a witness that meets
them. -/

namespace Sys2Proof.Tests

open Sys2Proof.Machine

/-- The bits of a request as section 6 of file 95 writes it. -/
def requestBits (kind : BitVec 3) (addr data : Word) : BitVec 67 :=
  kind ++ addr ++ data

/-- A field of the next state, if there is one. -/
def nextField {α : Type} (f : State → α) : Result → Option α
  | .next t => some (f t)
  | _ => none

/-- The response, the latch and the trace that an UnmappedAddress leaves, if the outcome is one. -/
def stopped : Result → Option (Response × Option Halt × List Event)
  | .fault (.unmappedAddress _ _ t) => some (t.response, t.halted, t.trace)
  | _ => none

/-- Whether the outcome is a next state. -/
def isNext : Result → Bool
  | .next _ => true
  | _ => false

theorem exists_next {o : Result} (h : isNext o = true) : ∃ t, o = .next t := by
  cases o <;> simp_all [isNext]

/-- The reset state with one register set. -/
def withReg (r : Reg) (v : Word) (s : State := State.reset) : State :=
  { s with rf := s.rf.set r v }

/-- The reset state with the sequencer in `q`. -/
def withSeq (q : Sequencer) : State :=
  { State.reset with seq := q }

/-- What a step leaves that the vectors of section 8 list: the response, the register's value and the trace. -/
def seen (r : Reg) (o : Result) : Option (Response × Word × List Event) :=
  nextField (fun t => (t.response, t.rf.get r, t.trace)) o

/-! ## Decoding: the words of file 95, section 6, and of rule R85 -/

theorem test_decode_rd_intstat :
    decode (Request.ofBits (requestBits 0b000#3 0x1F810020#32 0#32)) = .ok (.read32 0x1F810020#32) := by decide

theorem test_decode_rd_ifs0inv :
    decode (Request.ofBits (requestBits 0b000#3 0x1F81004C#32 0#32)) = .ok (.read32 0x1F81004C#32) := by decide

theorem test_decode_wr_iec0 :
    decode (Request.ofBits (requestBits 0b001#3 0x1F8100C0#32 1#32)) = .ok (.writeAssign 0x1F8100C0#32 1#32) := by
  decide

theorem test_decode_wr_iec0clr :
    decode (Request.ofBits (requestBits 0b001#3 0x1F8100C4#32 1#32)) = .ok (.writeClr 0x1F8100C4#32 1#32) := by
  decide

theorem test_decode_wr_iec0set :
    decode (Request.ofBits (requestBits 0b001#3 0x1F8100C8#32 1#32)) = .ok (.writeSet 0x1F8100C8#32 1#32) := by
  decide

theorem test_decode_wr_iec0inv :
    decode (Request.ofBits (requestBits 0b001#3 0x1F8100CC#32 1#32)) = .ok (.writeInv 0x1F8100CC#32 1#32) := by
  decide

/-- The table's word, and the same with the ignored addr 0xFFFFFFFF. -/
theorem test_decode_irq_raise :
    decode (Request.ofBits (requestBits 0b010#3 0#32 9#32)) = .ok (.irqRaise 9#32) ∧
    decode (Request.ofBits (requestBits 0b010#3 0xFFFFFFFF#32 9#32)) = .ok (.irqRaise 9#32) := by decide

theorem test_decode_irq_clear :
    decode (Request.ofBits (requestBits 0b011#3 0#32 7#32)) = .ok (.irqClear 7#32) := by decide

theorem test_decode_reset : decode (Request.ofBits (requestBits 0b100#3 0#32 0#32)) = .ok .reset := by decide

theorem test_decode_init : decode (Request.ofBits (requestBits 0b101#3 0#32 0#32)) = .ok (.init 0#32) := by decide

/-- Reserved kinds and unaligned accesses are rejected by name (rules R86, R87). -/
theorem test_decode_rejects :
    decode (Request.ofBits (requestBits 0b110#3 0#32 0#32)) = .error (.reservedKind 0b110#3) ∧
    decode (Request.ofBits (requestBits 0b111#3 0#32 0#32)) = .error (.reservedKind 0b111#3) ∧
    decode (Request.ofBits (requestBits 0b001#3 0x1F8100C2#32 0#32)) = .error (.unaligned 0x1F8100C2#32 .write) ∧
    decode (Request.ofBits (requestBits 0b000#3 0x1F860132#32 0#32)) = .error (.unaligned 0x1F860132#32 .read) := by
  decide

/-- The selection keys of spec/opcode_table.json, as the table numbers the bits. -/
theorem test_table_words :
    decodeTableWord 8 0x0C = some (.read32 0xC#32) ∧ decodeTableWord 8 0x10 = some (.writeAssign 0#32 0#32) ∧
    decodeTableWord 8 0x14 = some (.writeClr 4#32 0#32) ∧ decodeTableWord 8 0x18 = some (.writeSet 8#32 0#32) ∧
    decodeTableWord 8 0x1C = some (.writeInv 0xC#32 0#32) ∧ decodeTableWord 8 0x2F = some (.irqRaise 0#32) ∧
    decodeTableWord 8 0x30 = some (.irqClear 0#32) ∧ decodeTableWord 8 0x40 = some .reset ∧
    decodeTableWord 8 0x50 = some (.init 0#32) ∧ decodeTableWord 8 0x60 = none ∧ decodeTableWord 8 0x12 = none := by
  decide

/-- A placed word runs as the first request after reset. -/
theorem test_placed_words :
    nextField (·.trace) (step (State.reset.withFetchWord 8 0x40)) =
      some [.deviceSoftReset, .notifyInterrupt 0#3 0#8] ∧
    nextField (fun t => t.rf.get (.ifs 0)) (step (State.reset.withFetchWord 8 0x20)) = some 1#32 := by
  decide +kernel

/-! ## Well-formedness: an ill-formed term for each check -/

/-- Every constructor with an address refuses bits [3:0] that are not its own (rule R85). -/
theorem test_wf_refuses_instr :
    (Instr.read32 0x1F860132#32).wf = false ∧ (Instr.writeAssign 0x1F8100C4#32 0#32).wf = false ∧
    (Instr.writeClr 0x1F8100C0#32 0#32).wf = false ∧ (Instr.writeSet 0x1F8100CC#32 0#32).wf = false ∧
    (Instr.writeInv 0x1F8100C8#32 0#32).wf = false := by
  decide

/-- A base that is no multiple of 16, and a group that wraps past 0xFFFFFFFF (rule R53). -/
theorem test_wf_refuses_descriptor :
    { refDesc .osccon with base := 0x1F801204#32 }.aligned = false ∧
    { refDesc .osccon with base := 0xFFFFFFF8#32 }.noWrap = false := by
  decide

/-- Two registers at one base (rule R53). -/
theorem test_wf_refuses_overlap :
    RegMap.disjointOn (fun _ => refDesc .osccon) [.osccon, .devid] = false := by
  decide

/-- A table in which every register has one base is not built (rule R53). -/
theorem test_build_refuses : RegMap.build (fun _ => refDesc .osccon) = none := by
  decide +kernel

/-- `N_SRC` must be 1 to 192 (rule R10). -/
theorem test_wf_refuses_nsrc :
    Params.wf { params with nSrc := 0 } = false ∧ Params.wf { params with nSrc := 193 } = false := by
  constructor <;> simp [Params.wf]

/-! ## The shared operations: file 95, sections 3, 4, 5, 7 and 2 -/

/-- The table of section 3, with v = 0x12345678. -/
theorem test_alias_table :
    [0x00000000#32, 0xFFFFFFFF#32, 0x0000FFFF#32, 0xF0F0F0F0#32].map
        (fun d => [aliasWrite .assign 0x12345678#32 d, aliasWrite .clear 0x12345678#32 d,
          aliasWrite .set 0x12345678#32 d, aliasWrite .invert 0x12345678#32 d]) =
      [[0x00000000#32, 0x12345678#32, 0x12345678#32, 0x12345678#32],
       [0xFFFFFFFF#32, 0x00000000#32, 0xFFFFFFFF#32, 0xEDCBA987#32],
       [0x0000FFFF#32, 0x12340000#32, 0x1234FFFF#32, 0x1234A987#32],
       [0xF0F0F0F0#32, 0x02040608#32, 0xF2F4F6F8#32, 0xE2C4A688#32]] := by
  decide

/-- The table of section 4. -/
theorem test_mask_table :
    mergeWrite spistatRoMask .assign 0x41#32 0x0#32 = 0x01#32 ∧
    mergeWrite spistatRoMask .assign 0x41#32 0xFFFFFFFF#32 = 0x41#32 ∧
    mergeWrite spistatRoMask .clear 0x41#32 0x40#32 = 0x01#32 ∧
    mergeWrite spistatRoMask .set 0x01#32 0x40#32 = 0x41#32 ∧
    mergeWrite spistatRoMask .invert 0x41#32 0xFFFFFFFF#32 = 0x01#32 ∧
    mergeWrite spistatRoMask .clear 0x41#32 0xFFFFFFFF#32 = 0x01#32 ∧
    mergeWrite ustaRoMask .assign 0x110#32 0x1400#32 = 0x1510#32 ∧
    mergeWrite ustaRoMask .set 0x0#32 0x31D#32 = 0x0#32 := by
  decide

/-- The mapped rows of section 5. -/
theorem test_decoder_mapped :
    decodeAddr params 0x1F810040#32 = some (.ifs 0, .assign) ∧
    decodeAddr params 0x1F81004C#32 = some (.ifs 0, .invert) ∧
    decodeAddr params 0x1F810434#32 = some (.ipc 47, .clear) ∧
    decodeAddr params 0x1F81002C#32 = some (.intstat, .invert) ∧
    decodeAddr params 0x1F800020#32 = some (.devid, .assign) ∧
    decodeAddr params 0x1F801254#32 = some (.rswrst, .clear) ∧
    decodeAddr params 0x1F822A30#32 = some (.urxreg 5, .assign) := by
  decide +kernel

/-- The Unmapped rows of section 5. -/
theorem test_decoder_unmapped :
    [0x1F810440#32, 0x1F810030#32, 0x1F800034#32, 0x1F860132#32, 0x1F860700#32, 0x1F822024#32, 0x1F821624#32].all
      (fun a => (decodeAddr params a).isNone) = true := by
  decide +kernel

/-- The names of section 5. -/
theorem test_names :
    symbolicName params (.ifs 0) .invert = "IFS0INV" ∧ symbolicName params (.ipc 47) .clear = "IPC47CLR" ∧
    symbolicName params (.urxreg 5) .assign = "U6RXREG" ∧ symbolicName params (.lat 1) .set = "LATBSET" := by
  decide +kernel

/-- The register file of T1. -/
def arbiterT1 : RegFile :=
  ((((resetFile.set (.ipc 0) 0x000C0000#32).set (.ipc 1) 0x14000014#32).set (.ipc 2) 0x00000400#32).set
    (.ifs 0) 0x00000294#32).set (.iec 0) 0xFFFFFFFF#32

/-- The register file of A3. -/
def arbiterA3 : RegFile :=
  ((resetFile.set (.ipc 47) 0x1C000000#32).set (.ifs 5) 0x80000000#32).set (.iec 5) 0x80000000#32

/-- A1 to A4 of section 7. -/
theorem test_arbiter_ties :
    arbitrate params arbiterT1 = ⟨5#3, 4#8⟩ ∧
    arbitrate params (arbiterT1.set (.iec 0) 0#32) = ⟨0#3, 0#8⟩ ∧
    arbitrate params arbiterA3 = ⟨7#3, 191#8⟩ ∧
    arbitrate params (((arbiterA3.set (.ipc 1) 0x1C00#32).set (.ifs 0) 0x20#32).set (.iec 0) 0x20#32) =
      ⟨7#3, 5#8⟩ := by
  decide +kernel

/-- A5 to A8 of section 7. -/
theorem test_arbiter_fields :
    arbitrate params (((resetFile.set (.ipc 2) 0x04080000#32).set (.ifs 0) 0xC00#32).set (.iec 0) 0x800#32) =
      ⟨1#3, 11#8⟩ ∧
    arbitrate params (((resetFile.set (.ipc 0) 3#32).set (.ifs 0) 1#32).set (.iec 0) 1#32) = ⟨0#3, 0#8⟩ ∧
    arbitrate params (((resetFile.set (.ipc 8) 0x1000#32).set (.ifs 1) 2#32).set (.iec 1) 2#32) = ⟨4#3, 33#8⟩ ∧
    arbitrate params (((resetFile.set (.ipc 1) 0x1F#32).set (.ifs 0) 0x10#32).set (.iec 0) 0x10#32) =
      ⟨7#3, 4#8⟩ := by
  decide +kernel

/-- INTSTAT's packing in A1 and A3. -/
theorem test_pack_status : packStatus ⟨5#3, 4#8⟩ = 0x504#32 ∧ packStatus ⟨7#3, 191#8⟩ = 0x7BF#32 := by
  decide

/-- The transitions of T8. -/
theorem test_sequencer_table :
    nextSeq .locked 0xAA996655#32 = .stage1 ∧ nextSeq .stage1 0x556699AA#32 = .unlocked ∧
    nextSeq .stage1 0#32 = .locked ∧ nextSeq .stage1 0xAA996655#32 = .locked ∧
    nextSeq .unlocked 0x556699AA#32 = .locked ∧ nextSeq .unlocked 0xAA996655#32 = .locked ∧
    nextSeq .locked 0x556699AA#32 = .locked ∧ nextSeq .locked 0x12345678#32 = .locked := by
  decide

/-- The codes of rule R180. -/
theorem test_error_codes :
    [ErrorCode.unmappedAddress, .readOnlyViolation, .invalidSysKeySequence, .backendFailure].map errorNumber =
      [1, 2, 3, 4] := by
  decide

/-- The expansions of rule R91, with P1's and P4's addresses. -/
theorem test_pseudo :
    Pseudo.expand params .softreset =
      [.writeAssign 0x1F800030#32 0#32, .writeAssign 0x1F800030#32 0xAA996655#32,
        .writeAssign 0x1F800030#32 0x556699AA#32, .writeAssign 0x1F801250#32 1#32] ∧
    Pseudo.expand params (.irqEnable 2) = [.writeSet 0x1F8100C8#32 4#32] ∧
    Pseudo.expand params (.irqPrio 191 5#3) =
      [.writeClr 0x1F810434#32 0x1C000000#32, .writeSet 0x1F810438#32 0x14000000#32] := by
  decide +kernel

/-- Rule R90's example, a number that names no register, and a read-only response. -/
theorem test_text :
    requestText params (.writeClr 0x1F860134#32 1#32) = "wr LATBCLR, 0x00000001" ∧
    requestText params (.read32 0x1F860132#32) = "rd 0x1F860132" ∧
    requestText params (.irqRaise 9#32) = "irq.raise 9" ∧
    responseText .write ⟨.roViolation, some 0#32, "INTSTATSET"⟩ = "-> RO" ∧
    responseText .read ⟨.ok, some 0x504#32, "INTSTAT"⟩ = "-> 0x00000504" := by
  decide +kernel

/-! ## One step each: file 95, section 8, and the rules' examples -/

/-- H4, H19 and R110's example: plain reads, the third through an INV address; and P2's eighth request, a read that
answers FATAL with no value (rule R181). -/
theorem test_read32_plain :
    seen (.utxreg 0) (exec (.read32 0x1F822020#32) State.reset) = some (⟨.ok, some 0#32, "U1TXREG"⟩, 0#32, []) ∧
    seen .syskey (exec (.read32 0x1F800030#32) State.reset) = some (⟨.ok, some 0#32, "SYSKEY"⟩, 0#32, []) ∧
    seen (.lat 1) (exec (.read32 0x1F86013C#32) (withReg (.lat 1) 0xFFFFFFFE#32)) =
      some (⟨.ok, some 0xFFFFFFFE#32, "LATBINV"⟩, 0xFFFFFFFE#32, []) ∧
    stopped (exec (.read32 0x1F860132#32) State.reset) =
      some (⟨.fatal, none, ""⟩, some ⟨0x1F860132#32, .read⟩, [.report .unmappedAddress 0x1F860132#32 .read ""]) := by
  decide +kernel

/-- H5, H6, H7 and H10: reads that poll a backend. -/
theorem test_read32_hooks :
    seen (.urxreg 1) (exec (.read32 0x1F822230#32)
        { withReg (.urxreg 1) 0x41#32 with rxAnswers := [some 0x0A#8] }) =
      some (⟨.ok, some 0x0A#32, "U2RXREG"⟩, 0x0A#32, [.uartPollReceive 1 (some 0x0A#8)]) ∧
    seen (.urxreg 1) (exec (.read32 0x1F822230#32) { withReg (.urxreg 1) 0x0A#32 with rxAnswers := [none] }) =
      some (⟨.ok, some 0x0A#32, "U2RXREG"⟩, 0x0A#32, [.uartPollReceive 1 none]) ∧
    seen (.usta 0) (exec (.read32 0x1F822010#32) { State.reset with staAnswers := [some 0x110#32] }) =
      some (⟨.ok, some 0x110#32, "U1STA"⟩, 0x110#32, [.uartPollStatus 0 (some 0x110#32)]) ∧
    seen (.spibuf 1) (exec (.read32 0x1F821220#32) { State.reset with spiAnswers := [0x5A#32] }) =
      some (⟨.ok, some 0x5A#32, "SPI2BUF"⟩, 0#32, [.spiReadBuffer 1 0x5A#32]) := by
  decide +kernel

/-- H3, H9, H11, H14 and H16. -/
theorem test_writeAssign_hooks :
    seen (.utxreg 0) (exec (.writeAssign 0x1F822020#32 0x141#32) State.reset) =
      some (⟨.ok, some 0#32, "U1TXREG"⟩, 0#32, [.uartTransmit 0 0x41#8]) ∧
    seen (.spibuf 1) (exec (.writeAssign 0x1F821220#32 0xFF#32) State.reset) =
      some (⟨.ok, some 0#32, "SPI2BUF"⟩, 0#32, [.spiWriteBuffer 1 0xFF#32]) ∧
    seen (.spicon 0) (exec (.writeAssign 0x1F821000#32 0x8120#32) State.reset) =
      some (⟨.ok, some 0#32, "SPI1CON"⟩, 0x8120#32, [.spiConfigure 0]) ∧
    seen .rswrst (exec (.writeAssign 0x1F801250#32 2#32) (withSeq .unlocked)) =
      some (⟨.ok, some 0#32, "RSWRST"⟩, 2#32, []) ∧
    nextField (fun t => (t.response.status, t.trace)) (exec (.writeAssign 0x1F800020#32 0#32) State.reset) =
      some (.roViolation, [.report .readOnlyViolation 0x1F800020#32 .write "DEVID"]) := by
  decide +kernel

/-- H15, and a write to no register, which answers FATAL with the value 0 of every WRITE32 (rules R82, R181). -/
theorem test_writeAssign_locked :
    nextField (fun t => (t.rf.get .rswrst, t.seq)) (exec (.writeAssign 0x1F801250#32 1#32) (withSeq .stage1)) =
      some (1#32, .stage1) ∧
    stopped (exec (.writeAssign 0x1F821030#32 1#32) State.reset) =
      some (⟨.fatal, some 0#32, ""⟩, some ⟨0x1F821030#32, .write⟩,
        [.report .unmappedAddress 0x1F821030#32 .write ""]) := by
  decide +kernel

/-- H1 and H12. -/
theorem test_writeClr :
    seen (.lat 1) (exec (.writeClr 0x1F860134#32 1#32) State.reset) =
      some (⟨.ok, some 0#32, "LATBCLR"⟩, 0xFFFFFFFE#32, [.gpioLatchChanged 1 0xFFFFFFFE#32]) ∧
    nextField (fun t => (t.rf.get .rswrst, t.seq, t.trace)) (exec (.writeClr 0x1F801254#32 1#32) (withSeq .unlocked)) =
      some (0#32, .unlocked, []) := by
  decide +kernel

/-- H2, H8 and H17. -/
theorem test_writeSet :
    seen (.lat 1) (exec (.writeSet 0x1F860138#32 0#32) (withReg (.lat 1) 0xFFFFFFFE#32)) =
      some (⟨.ok, some 0#32, "LATBSET"⟩, 0xFFFFFFFE#32, [.gpioLatchChanged 1 0xFFFFFFFE#32]) ∧
    seen (.umode 2) (exec (.writeSet 0x1F822408#32 0x8000#32) State.reset) =
      some (⟨.ok, some 0#32, "U3MODESET"⟩, 0x8000#32, [.uartApplyMode 2]) ∧
    seen (.urxreg 0) (exec (.writeSet 0x1F822038#32 1#32) State.reset) =
      some (⟨.roViolation, some 0#32, "U1RXREGSET"⟩, 0#32,
        [.report .readOnlyViolation 0x1F822038#32 .write "U1RXREGSET"]) := by
  decide +kernel

/-- R153's corner case: a set bit set again still recomputes and notifies. -/
theorem test_writeSet_notifies_unchanged :
    seen .intstat (exec (.writeSet 0x1F810048#32 4#32) (withReg (.ifs 0) 4#32)) =
      some (⟨.ok, some 0#32, "IFS0SET"⟩, 0#32, [.notifyInterrupt 0#3 0#8]) := by
  decide +kernel

/-- H18 and H13. -/
theorem test_writeInv :
    seen (.tris 0) (exec (.writeInv 0x1F86001C#32 0xFFFFFFFF#32) State.reset) =
      some (⟨.ok, some 0#32, "TRISAINV"⟩, 0#32, []) ∧
    nextField (fun t => (t.response, [t.rf.get .rswrst, t.rf.get (.lat 0)], t.seq, t.trace))
        (exec (.writeInv 0x1F80125C#32 1#32) (withReg (.lat 0) 0x1234#32 (withSeq .unlocked))) =
      some (⟨.ok, some 0#32, "RSWRSTINV"⟩, [0#32, 0xFFFFFFFF#32], .locked, [.deviceSoftReset, .notifyInterrupt 0#3 0#8]) := by
  decide +kernel

/-- The state of R150's example. -/
def raiseExample : State :=
  withReg (.ipc 0) 0x000C0000#32 (withReg (.iec 0) 4#32)

/-- R150's example, and its corner cases: a set flag, and index 192. -/
theorem test_irqRaise :
    nextField (fun t => (t.rf.get (.ifs 0), t.rf.get .intstat, t.trace)) (exec (.irqRaise 2#32) raiseExample) =
      some (4#32, 0x302#32, [.notifyInterrupt 3#3 2#8]) ∧
    nextField (fun t => (t.rf.get (.ifs 0), t.trace)) (exec (.irqRaise 2#32) (withReg (.ifs 0) 4#32)) =
      some (4#32, []) ∧
    isNext (exec (.irqRaise 191#32) State.reset) = true ∧ isNext (exec (.irqRaise 192#32) State.reset) = false := by
  decide +kernel

/-- R151's example, and its corner cases: a clear flag, and index 0xFFFFFFFF. -/
theorem test_irqClear :
    nextField (fun t => (t.rf.get (.ifs 0), t.rf.get .intstat, t.trace))
        (exec (.irqClear 2#32) (withReg .intstat 0x302#32 (withReg (.ifs 0) 4#32 raiseExample))) =
      some (0#32, 0#32, [.notifyInterrupt 0#3 0#8]) ∧
    nextField (fun t => (t.rf.get (.ifs 0), t.trace)) (exec (.irqClear 2#32) State.reset) = some (0#32, []) ∧
    isNext (exec (.irqClear 0xFFFFFFFF#32) State.reset) = false := by
  decide +kernel

/-- R170's example. -/
theorem test_reset :
    nextField (fun t => (t.rf.get (.lat 0), t.rf.get (.ifs 0), t.seq, t.rf.get .intstat, t.trace))
        (exec .reset (withReg (.lat 0) 0#32 (withReg (.ifs 0) 1#32 (withSeq .stage1)))) =
      some (0xFFFFFFFF#32, 0#32, .locked, 0#32, [.deviceSoftReset, .notifyInterrupt 0#3 0#8]) := by
  decide +kernel

/-- A state before any RESET or INIT (rule R49). -/
def beforeInit : State :=
  { State.reset with initialised := false, halted := some { addr := 0#32, dir := .read }, seq := .unlocked }

/-- R171's example. -/
theorem test_init :
    nextField (fun t => (t.initialised, t.halted, t.seq, t.trace)) (exec (.init 0#32) beforeInit) =
      some (true, none, .locked, [.deviceSoftReset, .notifyInterrupt 0#3 0#8]) := by
  decide +kernel

/-! ## Witnesses: for each obligation with hypotheses, a state and operands that meet them -/

/-- The block that takes requests: every obligation with the premise `Running`. -/
theorem witness_running : Running State.reset := ⟨rfl, rfl⟩

/-- DecodeEncodeAgree, at the addresses where the key patterns meet. -/
theorem witness_DecodeEncodeAgree :
    (Instr.read32 0xFFFFFFFC#32).wf = true ∧ (Instr.writeAssign 0xFFFFFFF0#32 0#32).wf = true ∧
    (Instr.writeClr 0xFFFFFFF4#32 0#32).wf = true ∧ (Instr.writeSet 0xFFFFFFF8#32 0#32).wf = true ∧
    (Instr.writeInv 0xFFFFFFFC#32 0#32).wf = true ∧ (Instr.irqRaise 0xFFFFFFFF#32).wf = true ∧
    (Instr.irqClear 0#32).wf = true ∧ Instr.reset.wf = true ∧ (Instr.init 0#32).wf = true := by
  decide

/-- DecodeIsSound: one request of each kind. -/
theorem witness_DecodeIsSound :
    decode ⟨0b000#3, 0xFFFFFFFC#32, 5#32⟩ = .ok (.read32 0xFFFFFFFC#32) ∧
    decode ⟨0b001#3, 0#32, 5#32⟩ = .ok (.writeAssign 0#32 5#32) ∧
    decode ⟨0b010#3, 3#32, 5#32⟩ = .ok (.irqRaise 5#32) ∧ decode ⟨0b100#3, 3#32, 5#32⟩ = .ok .reset ∧
    decode ⟨0b101#3, 3#32, 5#32⟩ = .ok (.init 5#32) := by
  decide

/-- KeyAloneSelectsInstruction: two different requests with one key. -/
theorem witness_KeyAloneSelectsInstruction :
    ∃ q q' : Request, q ≠ q' ∧ q.kind = q'.kind ∧ q.addr.extractLsb' 0 4 = q'.addr.extractLsb' 0 4 :=
  ⟨⟨0b001#3, 0x14#32, 0#32⟩, ⟨0b001#3, 0x24#32, 1#32⟩, by decide⟩

/-- IgnoredFieldsHaveNoEffect: aligned addresses at both ends. -/
theorem witness_IgnoredFieldsHaveNoEffect :
    (0#32).extractLsb' 0 2 = 0#2 ∧ (0xFFFFFFFC#32).extractLsb' 0 2 = 0#2 := by
  decide

/-- ReservedKindIsRefused: both kinds, and a sub-word access at the head of the inbox. -/
theorem witness_ReservedKindIsRefused :
    Running State.reset ∧ (0b110#3 = 0b110#3 ∨ 0b110#3 = 0b111#3) ∧ (0b111#3 = 0b110#3 ∨ 0b111#3 = 0b111#3) ∧
    ∃ s, Running s ∧ s.irqPending = [] ∧ s.inbox = [.subWordAccess 0x1F810020#32 .read] :=
  ⟨witness_running, .inl rfl, .inr rfl,
    { State.reset with inbox := [.subWordAccess 0x1F810020#32 .read] }, ⟨rfl, rfl⟩, rfl, rfl⟩

/-- StepRunsDecodedRequest: one state for each clause. -/
theorem witness_StepRunsDecodedRequest :
    (∃ (s : State) (q : Request) (i : Instr), s.irqPending = [] ∧ s.inbox = [.request q] ∧ decode q = .ok i) ∧
    (∃ s : State, s.irqPending = [.raise 9#32] ∧ s.inbox ≠ []) ∧ (∃ s : State, s.irqPending = [.clear 9#32]) ∧
    (State.reset.irqPending = [] ∧ State.reset.inbox = [] ∧ State.reset.halted = none) :=
  ⟨⟨placeRequest ⟨0b100#3, 0#32, 0#32⟩ State.reset, ⟨0b100#3, 0#32, 0#32⟩, .reset, rfl, rfl, by decide⟩,
    ⟨{ State.reset with irqPending := [.raise 9#32], inbox := [.request ⟨0b100#3, 0#32, 0#32⟩] }, rfl, by simp⟩,
    ⟨{ State.reset with irqPending := [.clear 9#32] }, rfl⟩, rfl, rfl, rfl⟩

/-- PlacedWordRuns. -/
theorem witness_PlacedWordRuns : decodeTableWord 8 0x20 = some (.irqRaise 0#32) := by decide

/-- DecodedViewIsAddressBits: an address of each view. -/
theorem witness_DecodedViewIsAddressBits :
    Params.wf params = true ∧ decodeAddr params 0x1F810430#32 = some (.ipc 47, .assign) ∧
    decodeAddr params 0x1F810434#32 = some (.ipc 47, .clear) ∧
    decodeAddr params 0x1F810438#32 = some (.ipc 47, .set) ∧
    decodeAddr params 0x1F81043C#32 = some (.ipc 47, .invert) :=
  ⟨params_wf, by decide +kernel⟩

/-- AliasGroupResolvesToOneRegister: an aliased register, and an address that is a view of one. -/
theorem witness_AliasGroupResolvesToOneRegister :
    Params.wf params = true ∧ (params.regMap (.ipc 47)).aliased = true ∧
    viewAt (params.regMap (.ipc 47)) 0x1F81043C#32 = some .invert :=
  ⟨params_wf, by decide +kernel⟩

/-- UnalignedAndUndeclaredAreUnmapped: an unaligned address and a register without alias views. -/
theorem witness_UnalignedAndUndeclaredAreUnmapped :
    Params.wf params = true ∧ (0xFFFFFFFF#32).extractLsb' 0 2 ≠ 0b00#2 ∧
    (params.regMap (.spibuf 3)).aliased = false ∧ Running State.reset :=
  ⟨params_wf, by decide, rfl, witness_running⟩

/-- ReadPlainRegister: an alias view, and a register that has none. -/
theorem witness_ReadPlainRegister :
    Running State.reset ∧ HasView .osccon .invert ∧ (params.regMap .osccon).rhook = .none ∧
    HasView .syskey .assign ∧ (params.regMap .syskey).rhook = .none :=
  ⟨witness_running, .inr rfl, rfl, .inl rfl, rfl⟩

/-- ReadUartReceive: an answered byte, and none. -/
theorem witness_ReadUartReceive :
    (∃ s, Running s ∧ rxAnswer s = some 0xFF#8) ∧ ∃ s, Running s ∧ rxAnswer s = none :=
  ⟨⟨{ State.reset with rxAnswers := [some 0xFF#8] }, ⟨rfl, rfl⟩, rfl⟩,
    ⟨{ State.reset with rxAnswers := [none] }, ⟨rfl, rfl⟩, rfl⟩⟩

/-- ReadUartStatus: an answered word, and none. -/
theorem witness_ReadUartStatus :
    (∃ s, Running s ∧ staAnswer s = some 0x110#32) ∧ ∃ s, Running s ∧ staAnswer s = none :=
  ⟨⟨{ State.reset with staAnswers := [some 0x110#32] }, ⟨rfl, rfl⟩, rfl⟩,
    ⟨{ State.reset with staAnswers := [none] }, ⟨rfl, rfl⟩, rfl⟩⟩

/-- SpiBufferForwards, TrisIsPlainStorage, WriteLatchNotifiesGpio, WriteUartModeAppliesMode,
WriteSpiControlConfigures, WriteUartTransmitForwardsByte: the premise is `Running` alone. -/
theorem witness_hooks_running : Running (withSeq .unlocked) := ⟨rfl, rfl⟩

/-- ReadsNeverTouchInterrupts. -/
theorem witness_ReadsNeverTouchInterrupts : ∃ t, exec (.read32 0x1F810020#32) State.reset = .next t :=
  exists_next (by decide +kernel)

/-- WriteAssignStoresData, WriteClrClearsBits, WriteSetSetsBits and WriteInvInvertsBits: an unmasked and a masked
register. -/
theorem witness_WriteStores :
    Running State.reset ∧
    (params.regMap .osccon).ro = false ∧ (params.regMap .osccon).stored = true ∧
    (params.regMap .osccon).whook = .none ∧
    (params.regMap (.spistat 3)).ro = false ∧ (params.regMap (.spistat 3)).stored = true ∧
    (params.regMap (.spistat 3)).whook = .none :=
  ⟨witness_running, rfl, rfl, rfl, rfl, rfl, rfl⟩

/-- WriteSyskeyStepsSequencer: each state with each key. -/
theorem witness_WriteSyskeyStepsSequencer :
    Running (withSeq .locked) ∧ Running (withSeq .stage1) ∧ Running (withSeq .unlocked) :=
  ⟨⟨rfl, rfl⟩, ⟨rfl, rfl⟩, rfl, rfl⟩

/-- WriteRswrstFiresOnlyUnlocked: the firing case, and the two that do not fire. -/
theorem witness_WriteRswrstFiresOnlyUnlocked :
    (Running (withSeq .unlocked) ∧ (withSeq .unlocked).seq = .unlocked ∧
      (aliasWrite .assign 0#32 1#32).getLsbD 0 = true) ∧
    ((withSeq .unlocked).seq = .unlocked ∧ (aliasWrite .assign 0#32 2#32).getLsbD 0 = false) ∧
    (Running (withSeq .stage1) ∧ (withSeq .stage1).seq ≠ .unlocked) :=
  ⟨⟨⟨rfl, rfl⟩, rfl, by decide⟩, ⟨rfl, by decide⟩, ⟨rfl, rfl⟩, by decide⟩

/-- SoftResetLaw: each clause. -/
theorem witness_SoftResetLaw :
    (Running (withSeq .unlocked) ∧ (withSeq .unlocked).seq = .unlocked) ∧
    (Running (withSeq .locked) ∧ (withSeq .locked).seq = .locked) ∧
    (Running (withSeq .stage1) ∧ (withSeq .stage1).seq = .stage1) :=
  ⟨⟨⟨rfl, rfl⟩, rfl⟩, ⟨⟨rfl, rfl⟩, rfl⟩, ⟨rfl, rfl⟩, rfl⟩

/-- WriteInterruptRegisterRecomputes: a register of each family. -/
theorem witness_WriteInterruptRegisterRecomputes :
    Running State.reset ∧ ReadByArbiter (.ifs 5) ∧ ReadByArbiter (.iec 0) ∧ ReadByArbiter (.ipc 47) :=
  ⟨witness_running, trivial, trivial, trivial⟩

/-- WriteReadOnlyIsReported and ReadOnlyLaw: the three read-only families, and a later poll that is answered. -/
theorem witness_ReadOnly :
    Running State.reset ∧ (params.regMap .intstat).ro = true ∧ (params.regMap .devid).ro = true ∧
    (params.regMap (.urxreg 5)).ro = true ∧ (params.regMap .intstat).rhook = .none ∧
    rxAnswer { State.reset with rxAnswers := [some 0x0A#8] } = some 0x0A#8 :=
  ⟨witness_running, rfl, rfl, rfl, rfl, rfl⟩

/-- MaskedWriteMerges: a masked register through an alias view, a masked bit, and an unmasked register. -/
theorem witness_MaskedWriteMerges :
    Running State.reset ∧ HasView (.spistat 3) .invert ∧ (params.regMap (.spistat 3)).ro = false ∧
    (params.regMap (.spistat 3)).stored = true ∧ Reg.spistat 3 ≠ .rswrst ∧
    (params.regMap (.spistat 3)).roMask.getLsbD 31 = true ∧ (params.regMap (.tris 6)).roMask = 0#32 :=
  ⟨witness_running, .inr rfl, rfl, rfl, by decide, by decide, rfl⟩

/-- AliasLaw: TRISG, through its INV view. -/
theorem witness_AliasLaw :
    Params.wf params = true ∧ (params.regMap (.tris 6)).ro = false ∧ (params.regMap (.tris 6)).stored = true ∧
    (params.regMap (.tris 6)).roMask = 0#32 ∧ (params.regMap (.tris 6)).rhook = .none ∧
    (View.invert = .assign ∨ (params.regMap (.tris 6)).aliased = true) ∧
    (writeHook params (.tris 6) 5#32 (storeWrite params (.tris 6) .invert 5#32 State.reset)).rf.get (.tris 6) =
      (storeWrite params (.tris 6) .invert 5#32 State.reset).rf.get (.tris 6) ∧ Reg.tris 6 ≠ .rswrst :=
  ⟨params_wf, rfl, rfl, rfl, rfl, .inr rfl, rfl, by decide⟩

/-- WriteFrame: a plain write, and the write that fires the soft reset. -/
theorem witness_WriteFrame :
    (WritesTo (.writeInv 0x1F86001C#32 5#32) 0x1F86001C#32 ∧
      decodeAddr params 0x1F86001C#32 = some (.tris 0, .invert) ∧
      ∃ t, exec (.writeInv 0x1F86001C#32 5#32) State.reset = .next t) ∧
    (WritesTo (.writeAssign 0x1F801250#32 1#32) 0x1F801250#32 ∧
      decodeAddr params 0x1F801250#32 = some (.rswrst, .assign) ∧
      ∃ t, exec (.writeAssign 0x1F801250#32 1#32) (withSeq .unlocked) = .next t) :=
  ⟨⟨⟨.invert, 5#32, rfl⟩, by decide +kernel, exists_next (by decide +kernel)⟩,
    ⟨.assign, 1#32, rfl⟩, by decide +kernel, exists_next (by decide +kernel)⟩

/-- UnmappedAccessIsFatal: the first and last address, and the one past IPC47's group. -/
theorem witness_UnmappedAccessIsFatal :
    Running State.reset ∧ decodeAddr params 0#32 = none ∧ decodeAddr params 0xFFFFFFFF#32 = none ∧
    decodeAddr params 0x1F810440#32 = none :=
  ⟨witness_running, by decide +kernel⟩

/-- HaltedBlockTakesNoRequest. -/
theorem witness_HaltedBlockTakesNoRequest :
    (fatalState 0x1F860132#32 .read State.reset).initialised = true ∧
    (fatalState 0x1F860132#32 .read State.reset).halted = some { addr := 0x1F860132#32, dir := .read } :=
  ⟨rfl, rfl⟩

/-- BeforeInitOnlyLifecycleCompletes: an access, RESET and INIT. -/
theorem witness_BeforeInitOnlyLifecycleCompletes :
    beforeInit.initialised = false ∧ (Instr.read32 0#32 ≠ .reset ∧ ∀ h, Instr.read32 0#32 ≠ .init h) ∧
    (Instr.init 7#32 = .reset ∨ ∃ h, Instr.init 7#32 = .init h) :=
  ⟨rfl, ⟨by simp, by simp⟩, .inr ⟨7#32, rfl⟩⟩

/-- A write to INTSTAT, which the next step reports. -/
def reportingState : State :=
  placeRequest ⟨0b001#3, 0x1F810020#32, 1#32⟩ State.reset

/-- OnlyReadOnlyReportsFromSteps: a step that reports. -/
theorem witness_OnlyReadOnlyReportsFromSteps :
    (∃ t, step reportingState = .next t) ∧
    nextField (·.trace) (step reportingState) =
      some [.report .readOnlyViolation 0x1F810020#32 .write "INTSTAT"] :=
  ⟨exists_next (by decide +kernel), by decide +kernel⟩

/-- RaiseSetsFlagAndRecomputes: both sides of the boundary at 192, a clear and a set flag, and the example's
state. -/
theorem witness_RaiseSetsFlagAndRecomputes :
    Running State.reset ∧ (191#32).toNat < params.nSrc ∧ params.nSrc ≤ (192#32).toNat ∧
    (State.reset.rf.get (.ifs (flagReg 191))).getLsbD (flagBit 191) = false ∧
    ((withReg (.ifs 5) 0x80000000#32).rf.get (.ifs (flagReg 191))).getLsbD (flagBit 191) = true ∧
    (Running raiseExample ∧ (∀ n, raiseExample.rf.get (.ifs n) = 0#32) ∧
      raiseExample.rf.get (.iec 0) = 0x00000004#32 ∧ (∀ n, n ≠ 0 → raiseExample.rf.get (.iec n) = 0#32) ∧
      (raiseExample.rf.get (.ipc 0)).extractLsb' 18 3 = 3#3) :=
  ⟨witness_running, by decide +kernel, by decide +kernel, by decide +kernel, by decide +kernel, ⟨rfl, rfl⟩,
    by decide +kernel⟩

/-- ClearClearsFlagAndRecomputes: both sides of the boundary, a set flag, and the example's state. -/
theorem witness_ClearClearsFlagAndRecomputes :
    Running (withReg (.ifs 0) 4#32) ∧ (191#32).toNat < params.nSrc ∧ params.nSrc ≤ (192#32).toNat ∧
    ((withReg (.ifs 5) 0x80000000#32).rf.get (.ifs (flagReg 191))).getLsbD (flagBit 191) = true ∧
    (withReg (.ifs 0) 4#32).rf.get (.ifs 0) = 0x00000004#32 ∧
    (∀ n, n ≠ 0 → (withReg (.ifs 0) 4#32).rf.get (.ifs n) = 0#32) :=
  ⟨⟨rfl, rfl⟩, by decide +kernel⟩

/-- OneSourceChangesPerRequest, at the first and the last source. -/
theorem witness_OneSourceChangesPerRequest :
    (∃ t, exec (.irqRaise 0#32) State.reset = .next t) ∧ ∃ t, exec (.irqClear 191#32) State.reset = .next t :=
  ⟨exists_next (by decide +kernel), exists_next (by decide +kernel)⟩

/-- SourcesHaveTheirOwnPosition: two sources of one IPC register, at the top of the range. -/
theorem witness_SourcesHaveTheirOwnPosition : 190 < 192 ∧ 191 < 192 ∧ 190 ≠ 191 ∧ ipcReg 190 = ipcReg 191 := by
  decide

/-- ArbiterPicksHighestThenLowest: T1's register file, whose winner is source 4. -/
theorem witness_ArbiterPicksHighestThenLowest :
    4 < params.nSrc ∧ Asserted arbiterT1 4 ∧
    (∀ j < params.nSrc, flagSet arbiterT1 j = true → enableSet arbiterT1 j = true →
      prio arbiterT1 j ≤ prio arbiterT1 4) ∧
    (∀ j < 4, flagSet arbiterT1 j = true → enableSet arbiterT1 j = true → prio arbiterT1 j ≠ prio arbiterT1 4) ∧
    (arbitrate params arbiterT1).level ≠ 0#3 :=
  ⟨by decide +kernel, ⟨by decide +kernel, by decide +kernel, by decide +kernel⟩, by decide +kernel,
    by decide +kernel, by decide +kernel⟩

/-- LevelZeroNeverDelivered: a quiet file, and one with a winner, source 4. -/
theorem witness_LevelZeroNeverDelivered :
    (∀ i < params.nSrc, ¬Asserted resetFile i) ∧ (arbitrate params arbiterT1).level ≠ 0#3 :=
  ⟨fun i hi h => absurd h.1
      ((by decide +kernel : ∀ j < params.nSrc, ¬flagSet resetFile j = true) i hi), by decide +kernel⟩

/-- IgnoredBitsNeverAffectArbitration: T1's file, and the same with a bit outside the priority fields set. -/
theorem witness_IgnoredBitsNeverAffectArbitration :
    (∀ i < params.nSrc, (flagSet arbiterT1 i && enableSet arbiterT1 i) =
      (flagSet (arbiterT1.set (.ipc 0) 0x000C0003#32) i && enableSet (arbiterT1.set (.ipc 0) 0x000C0003#32) i)) ∧
    (∀ i < params.nSrc, flagSet arbiterT1 i = true → enableSet arbiterT1 i = true →
      prio arbiterT1 i = prio (arbiterT1.set (.ipc 0) 0x000C0003#32) i) := by
  decide +kernel

/-- The register file of ArbitrationExample: T1's with every source enabled. -/
def arbiterAllEnabled : RegFile :=
  { arbiterT1 with iec := Vector.replicate 6 0xFFFFFFFF#32 }

theorem witness_ArbitrationExample :
    (∀ i < 192, flagSet arbiterAllEnabled i = true ↔ i = 2 ∨ i = 4 ∨ i = 7 ∨ i = 9) ∧
    (∀ i < 192, enableSet arbiterAllEnabled i = true) ∧ prio arbiterAllEnabled 2 = 3#3 ∧
    prio arbiterAllEnabled 7 = 5#3 ∧ prio arbiterAllEnabled 4 = 5#3 ∧ prio arbiterAllEnabled 9 = 1#3 := by
  decide +kernel

/-- RaiseThenClearReturnsToQuiet, for the last source. -/
theorem witness_RaiseThenClearReturnsToQuiet :
    Running State.reset ∧ (191#32).toNat < 192 ∧
    ∀ j < 192, j ≠ (191#32).toNat → ¬Asserted State.reset.rf j :=
  ⟨witness_running, by decide, fun j hj _ => witness_LevelZeroNeverDelivered.1 j hj⟩

/-- ResetCompletes, InitIsResetWithHandle and ResetTwiceIsResetOnce: an uninitialised and a running block. -/
theorem witness_LifecycleAccepted :
    (beforeInit.initialised = false ∨ beforeInit.halted = none) ∧
    (State.reset.initialised = false ∨ State.reset.halted = none) :=
  ⟨.inl rfl, .inr rfl⟩

/-- A raise that waits in the inbox of the reset state with source 2 enabled at priority 3. -/
def raiseWaiting : State :=
  placeRequest ⟨0b010#3, 0#32, 2#32⟩ raiseExample

/-- StepKeepsStatusConsistent: a consistent state whose step changes IFS0 and INTSTAT. -/
theorem witness_StepKeepsStatusConsistent :
    StatusConsistent params raiseWaiting ∧ (∃ t, step raiseWaiting = .next t) ∧ ReadByArbiter (.ifs 0) ∧
    nextField (fun t => t.rf.get (.ifs 0)) (exec (.irqRaise 2#32) raiseExample) = some 4#32 ∧
    raiseExample.rf.get (.ifs 0) = 0#32 :=
  ⟨by unfold StatusConsistent; decide +kernel, exists_next (by decide +kernel), trivial, by decide +kernel,
    by decide +kernel⟩

/-- StepKeepsInvariant: a state other than reset. -/
theorem witness_StepKeepsInvariant : Inv raiseWaiting ∧ ∃ t, step raiseWaiting = .next t := by
  refine ⟨⟨⟨rfl, rfl⟩, witness_StepKeepsStatusConsistent.1, ⟨?_, rfl, ?_, ?_⟩, ?_, ?_⟩,
    exists_next (by decide +kernel)⟩
  · decide +kernel
  · decide +kernel
  · decide +kernel
  · unfold ReceiveRegsAreBytes; decide +kernel
  · unfold SpiStatMasked; decide +kernel

/-- NotificationCarriesOutputs: a step that changes INTSTAT and notifies. -/
theorem witness_NotificationCarriesOutputs :
    (∃ t, step raiseWaiting = .next t) ∧
    nextField (fun t => (t.rf.get .intstat, t.trace)) (step raiseWaiting) =
      some (0x302#32, [.notifyInterrupt 3#3 2#8]) ∧ raiseWaiting.rf.get .intstat = 0#32 :=
  ⟨exists_next (by decide +kernel), by decide +kernel, by decide +kernel⟩

/-- SequencerChangesOnlyByKeyOrReset: the three ways, the first reaching Unlocked. -/
theorem witness_SequencerChangesOnlyByKeyOrReset :
    nextField (·.seq) (exec (.writeAssign 0x1F800030#32 0x556699AA#32) (withSeq .stage1)) = some .unlocked ∧
    nextField (·.seq) (exec (.writeAssign 0x1F801250#32 1#32) (withSeq .unlocked)) = some .locked ∧
    nextField (·.seq) (exec .reset (withSeq .stage1)) = some .locked := by
  decide +kernel

/-- SequencerIsNotReadable: a read, and a write to another register. -/
theorem witness_SequencerIsNotReadable :
    (∃ t, exec (.read32 0x1F800030#32) State.reset = .next t) ∧ (∀ a, ¬WritesTo (.read32 0x1F800030#32) a) ∧
    Instr.read32 0x1F800030#32 ≠ .reset ∧ (∀ h, Instr.read32 0x1F800030#32 ≠ .init h) ∧
    (∃ t, exec (.writeAssign 0x1F801200#32 1#32) State.reset = .next t) ∧
    decodeAddr params 0x1F801200#32 = some (.osccon, .assign) := by
  refine ⟨exists_next (by decide +kernel), ?_, by simp, by simp, exists_next (by decide +kernel), by decide +kernel⟩
  rintro a ⟨k, d, h⟩
  cases k <;> simp [writeInstr] at h

/-- FlagsChangeOnlyByTheirOwnRequests: a raise, a write and a soft reset that change IFS0. -/
theorem witness_FlagsChangeOnlyByTheirOwnRequests :
    nextField (fun t => t.rf.get (.ifs 0)) (exec (.irqRaise 2#32) State.reset) = some 4#32 ∧
    nextField (fun t => t.rf.get (.ifs 0)) (exec (.writeSet 0x1F810048#32 1#32) State.reset) = some 1#32 ∧
    nextField (fun t => t.rf.get (.ifs 0)) (exec (.writeAssign 0x1F801250#32 1#32)
      (withReg (.ifs 0) 1#32 (withSeq .unlocked))) = some 0#32 ∧ State.reset.rf.get (.ifs 0) = 0#32 := by
  decide +kernel

/-- SdSelectFollowsLatch: the chip-select bank, and another one. -/
theorem witness_SdSelectFollowsLatch :
    Running State.reset ∧ (∃ b, b = Config.sdCsBank) ∧ ∃ b, b ≠ Config.sdCsBank :=
  ⟨witness_running, ⟨_, rfl⟩, (by decide : ∀ c : Fin 7, ∃ b, b ≠ c) _⟩

/-- BackendInterruptsWaitTheirTurn: the last source, with a request in the inbox. -/
theorem witness_BackendInterruptsWaitTheirTurn :
    ∃ s : State, Running s ∧ s.irqPending = [] ∧ s.irqScript = [.raise 191#32] :: [] ∧ s.inbox ≠ [] ∧
      (191#32).toNat < 192 :=
  ⟨{ State.reset with irqScript := [[.raise 191#32]], inbox := [.request ⟨0b100#3, 0#32, 0#32⟩] }, ⟨rfl, rfl⟩, rfl,
    rfl, by simp, by decide⟩

end Sys2Proof.Tests
end

/-! SUPPORT. What a request can do to the registers, the sequencer and the trace of REF, said once: the laws on which
the statements of file 10_state.md rest. -/

namespace Sys2Proof.Machine

/-! ### Notifications -/

/-- From `s` to `t` the trace grew, by events none of which is an interrupt notification. -/
def NoNotification (s t : State) : Prop :=
  ∃ es, t.trace = s.trace ++ es ∧ ∀ l v, Event.notifyInterrupt l v ∉ es

/-- From `s` to `t` the trace grew, the last of the new events is the only notification among them and carries the
outputs of `t` (rules R42, R156), and INTSTAT is the arbitration result (rule R39). -/
def Notified (s t : State) : Prop :=
  StatusConsistent params t ∧
    ∃ es, t.trace = s.trace ++ es ++ [.notifyInterrupt (irqLevel t) (irqVector t)] ∧
      ∀ l v, Event.notifyInterrupt l v ∉ es

theorem NoNotification.of_trace_eq {s t : State} (h : t.trace = s.trace) : NoNotification s t :=
  ⟨[], by simp [h], by simp⟩

theorem NoNotification.of_trace_append {s t : State} {e : Event} (h : t.trace = s.trace ++ [e])
    (he : ∀ l v, e ≠ .notifyInterrupt l v) : NoNotification s t :=
  ⟨[e], h, fun l v hm => he l v (List.mem_singleton.mp hm).symm⟩

/-- A response is no event and changes no register. -/
theorem Notified.respond {s t : State} (h : Notified s t) (st : Status) (v : Option Word) (n : String) :
    Notified s (respond st v n t) := h

/-- A recompute after events without a notification notifies. -/
theorem NoNotification.recompute {s t : State} (h : NoNotification s t) : Notified s (recomputeStatus params t) := by
  obtain ⟨es, ht, hes⟩ := h
  obtain ⟨hl, hv⟩ := recomputeStatus_outputs params t
  exact ⟨recomputeStatus_consistent params t, es, by rw [recomputeStatus_trace, hl, hv, ht], hes⟩

/-- The reset body notifies once, after `device_soft_reset`. -/
theorem NoNotification.resetBody {s t : State} (h : t.trace = s.trace) : Notified s (resetBody params t) :=
  NoNotification.recompute (.of_trace_append (e := .deviceSoftReset) (by simp [h]) (by simp))

/-! ### A write to a register of REF (rules R104, R129) -/

/-- The registers the arbiter reads take bus writes. -/
theorem ReadByArbiter.writable {r : Reg} (h : ReadByArbiter r) : (params.regMap r).ro = false := by
  cases r with
  | ifs | iec | ipc => rfl
  | _ => exact h.elim

/-- A read-only register of REF is not stored, so the storage update of it changes nothing. -/
theorem storeWrite_of_readOnly {r : Reg} (h : (params.regMap r).ro = true) (k : View) (d : Word) (s : State) :
    storeWrite params r k d s = s := by
  have hs : (params.regMap r).stored = false := by
    cases r with
    | intstat | devid | urxreg => rfl
    | _ => cases h
  simp [storeWrite, hs]

/-- What a write that neither recomputes nor resets leaves: the register file of the storage update, the sequencer
moved only by a SYSKEY write, and no notification. -/
structure PlainWrite (r : Reg) (k : View) (d : Word) (s t : State) : Prop where
  unread : ¬ReadByArbiter r
  rf_eq : t.rf = (storeWrite params r k d s).rf
  seq_eq : t.seq = if r = .syskey then nextSeq s.seq d else s.seq
  quiet : NoNotification s t

/-- All that the write hook of a register of REF can do. -/
theorem writeHook_ref (r : Reg) (d : Word) (s : State) :
    (¬ReadByArbiter r ∧ (writeHook params r d s).rf = s.rf ∧
      (writeHook params r d s).seq = (if r = .syskey then nextSeq s.seq d else s.seq) ∧
      NoNotification s (writeHook params r d s)) ∨
    (ReadByArbiter r ∧ writeHook params r d s = recomputeStatus params s) ∨
    (r = .rswrst ∧ s.seq = .unlocked ∧ writeHook params r d s = resetBody params s) := by
  cases r with
  | ifs | iec | ipc => exact .inr (.inl ⟨trivial, rfl⟩)
  | rswrst =>
    by_cases h : s.seq = .unlocked ∧ (readReg .rswrst s).getLsbD 0 = true
    · exact .inr (.inr ⟨rfl, h.1, if_pos h⟩)
    · have hs : writeHook params .rswrst d s = s := if_neg h
      exact .inl ⟨id, by rw [hs], by rw [hs]; rfl, .of_trace_eq (by rw [hs])⟩
  | intstat | syskey | osccon | devid | tris | usta | urxreg | spistat =>
    exact .inl ⟨id, rfl, rfl, .of_trace_eq rfl⟩
  | lat | umode | utxreg | spicon | spibuf =>
    exact .inl ⟨id, rfl, rfl, .of_trace_append rfl (by simp)⟩

/-- All that a write to a register of REF can do: a plain write, a recompute after a write of an IFS, IEC or IPC
register, or the soft reset after a write of RSWRST in Unlocked. -/
theorem writeDecoded_ref (a : Word) (r : Reg) (k : View) (d : Word) (s : State) :
    PlainWrite r k d s (writeDecoded params a r k d s) ∨
    (ReadByArbiter r ∧ writeDecoded params a r k d s =
      respond .ok (some 0#32) (symbolicName params r k) (recomputeStatus params (storeWrite params r k d s))) ∨
    (r = .rswrst ∧ s.seq = .unlocked ∧ writeDecoded params a r k d s =
      respond .ok (some 0#32) (symbolicName params r k) (resetBody params (storeWrite params r k d s))) := by
  obtain ⟨hseq, -, -, -, htr, -⟩ := storeWrite_keeps params r k d s
  cases hro : (params.regMap r).ro with
  | true =>
    rw [writeDecoded_readOnly hro]
    have hkey : r ≠ .syskey := by rintro rfl; cases hro
    exact .inl ⟨fun h => by simp [h.writable] at hro, by rw [storeWrite_of_readOnly hro]; rfl,
      by rw [if_neg hkey]; rfl, .of_trace_append rfl (by simp)⟩
  | false =>
    rw [writeDecoded_permitted hro]
    rcases writeHook_ref r d (storeWrite params r k d s) with ⟨hr, hrf, hsq, es, hes, hn⟩ | ⟨hr, h⟩ | ⟨rfl, hu, h⟩
    · exact .inl ⟨hr, hrf, by rw [respond_seq, hsq, hseq], es, by rw [respond_trace, hes, htr], hn⟩
    · exact .inr (.inl ⟨hr, by rw [h]⟩)
    · exact .inr (.inr ⟨rfl, hseq ▸ hu, by rw [h]⟩)

/-- A write leaves the latch, the initialised bit, the inbox and the backends' answers alone. -/
theorem writeDecoded_keeps (p : Params) (a : Word) (r : Reg) (k : View) (d : Word) (s : State) :
    (writeDecoded p a r k d s).halted = s.halted ∧ (writeDecoded p a r k d s).initialised = s.initialised ∧
      (writeDecoded p a r k d s).inbox = s.inbox ∧ (writeDecoded p a r k d s).rxAnswers = s.rxAnswers ∧
      (writeDecoded p a r k d s).staAnswers = s.staAnswers ∧ (writeDecoded p a r k d s).spiAnswers = s.spiAnswers ∧
      (writeDecoded p a r k d s).drawCount = s.drawCount := by
  cases hro : (p.regMap r).ro with
  | true => simp [writeDecoded_readOnly hro]
  | false =>
    have hs := storeWrite_keeps p r k d s
    have hk := writeHook_keeps p r d (storeWrite p r k d s)
    have hd := writeHook_draws p r d (storeWrite p r k d s)
    simp [writeDecoded_permitted hro, hs, hk, hd]

/-- The ways in which a write of `r` can change a register `q`. -/
theorem writeDecoded_get (a : Word) (r : Reg) (k : View) (d : Word) (s : State) (q : Reg) :
    (writeDecoded params a r k d s).rf.get q = s.rf.get q ∨
    (q = r ∧ (params.regMap r).stored = true ∧
      (writeDecoded params a r k d s).rf.get q = mergeWrite (params.regMap r).roMask k (s.rf.get r) d) ∨
    (q = .intstat ∧ ReadByArbiter r) ∨
    (r = .rswrst ∧ s.seq = .unlocked ∧ (writeDecoded params a r k d s).rf = resetFile) := by
  have hstore : (storeWrite params r k d s).rf.get q = s.rf.get q ∨ (q = r ∧ (params.regMap r).stored = true ∧
      (storeWrite params r k d s).rf.get q = mergeWrite (params.regMap r).roMask k (s.rf.get r) d) := by
    rw [storeWrite_get]
    by_cases h : q = r ∧ (params.regMap r).stored = true
    · exact .inr ⟨h.1, h.2, if_pos h⟩
    · exact .inl (if_neg h)
  rcases writeDecoded_ref a r k d s with h | ⟨hr, h⟩ | ⟨hr, hu, h⟩
  · rw [h.rf_eq]
    exact hstore.imp_right .inl
  · by_cases hq : q = .intstat
    · exact .inr (.inr (.inl ⟨hq, hr⟩))
    · have hget : (writeDecoded params a r k d s).rf.get q = (storeWrite params r k d s).rf.get q := by
        rw [h, respond_rf, recomputeStatus_get, if_neg hq]
      rw [hget]
      exact hstore.imp_right .inl
  · exact .inr (.inr (.inr ⟨hr, hu, by rw [h, respond_rf, resetBody_ref_rf]⟩))

end Sys2Proof.Machine

/-! SUPPORT. What an instruction of REF can do when it answers a next state: to the registers, to the sequencer and to
the trace. -/

namespace Sys2Proof.Machine

/-! ### Reads, raises and clears -/

/-- The ways in which a READ32 can change a register: an answer stored in UxRXREG or in UxSTA. -/
theorem readHook_get (r : Reg) (s : State) (q : Reg) :
    (readHook params r s).2.rf.get q = s.rf.get q ∨
    (∃ u b, q = .urxreg u ∧ (readHook params r s).2.rf.get q = receivedWord b) ∨ ∃ u, q = .usta u := by
  rcases readHook_rf params r s with h | ⟨u, b, -, h⟩ | ⟨u, w, -, h⟩
  · exact .inl (by rw [h])
  · by_cases hq : q = .urxreg u
    · exact .inr (.inl ⟨u, b, hq, by rw [h, hq, RegFile.get_set_self]⟩)
    · exact .inl (by rw [h, RegFile.get_set_of_ne hq])
  · by_cases hq : q = .usta u
    · exact .inr (.inr ⟨u, hq⟩)
    · exact .inl (by rw [h, RegFile.get_set_of_ne hq])

/-- A READ32 emits no notification. -/
theorem readHook_noNotification (r : Reg) (s : State) : NoNotification s (readHook params r s).2 := by
  obtain ⟨es, hes, hn⟩ := readHook_events params r s
  exact ⟨es, hes, fun l v hm => (hn _ hm).1 l v rfl⟩

/-- IRQ_RAISE leaves the state as it is, or writes the source's flag register and recomputes (rule R150). -/
theorem raiseFlag_cases (i : Nat) (s : State) :
    raiseFlag params i s = s ∧ flagSet s.rf i = true ∨
      raiseFlag params i s = recomputeStatus params (writeReg (.ifs (flagReg i)) (raisedWord s.rf i) s) := by
  unfold raiseFlag
  split
  · next h => exact .inl ⟨rfl, h⟩
  · exact .inr rfl

/-- IRQ_CLEAR leaves the state as it is, or writes the source's flag register and recomputes (rule R151). -/
theorem clearFlag_cases (i : Nat) (s : State) :
    clearFlag params i s = s ∧ flagSet s.rf i = false ∨
      clearFlag params i s = recomputeStatus params (writeReg (.ifs (flagReg i)) (clearedWord s.rf i) s) := by
  unfold clearFlag
  split
  · exact .inr rfl
  · next h => exact .inl ⟨rfl, by simpa using h⟩

/-- What IRQ_RAISE and IRQ_CLEAR have in common: nothing at all, or a write of the source's flag register followed by
the recompute. -/
def FlagRequest (i : Nat) (s t : State) : Prop :=
  t = s ∨ ∃ w, t = recomputeStatus params (writeReg (.ifs (flagReg i)) w s)

theorem raiseFlag_flagRequest (i : Nat) (s : State) : FlagRequest i s (raiseFlag params i s) :=
  (raiseFlag_cases i s).imp And.left fun h => ⟨_, h⟩

theorem clearFlag_flagRequest (i : Nat) (s : State) : FlagRequest i s (clearFlag params i s) :=
  (clearFlag_cases i s).imp And.left fun h => ⟨_, h⟩

namespace FlagRequest

variable {i : Nat} {s t : State}

theorem get (h : FlagRequest i s t) (q : Reg) :
    t.rf.get q = s.rf.get q ∨ q = .intstat ∨ q = .ifs (flagReg i) := by
  rcases h with rfl | ⟨w, rfl⟩
  · exact .inl rfl
  · by_cases hi : q = .intstat
    · exact .inr (.inl hi)
    · by_cases hf : q = .ifs (flagReg i)
      · exact .inr (.inr hf)
      · exact .inl (by rw [recomputeStatus_get, if_neg hi, writeReg_rf, RegFile.get_set_of_ne hf])

theorem keeps (h : FlagRequest i s t) :
    t.seq = s.seq ∧ t.halted = s.halted ∧ t.initialised = s.initialised := by
  rcases h with rfl | ⟨w, rfl⟩ <;> exact ⟨rfl, rfl, rfl⟩

theorem eq_or_notified (h : FlagRequest i s t) : t = s ∨ Notified s t := by
  rcases h with rfl | ⟨w, rfl⟩
  · exact .inl rfl
  · exact .inr (NoNotification.recompute (.of_trace_eq rfl))

end FlagRequest

/-! ### An instruction -/

/-- The four WRITE32 instructions as the write through a view. -/
theorem exists_writeInstr {i : Instr} {a d : Word}
    (h : i = .writeAssign a d ∨ i = .writeClr a d ∨ i = .writeSet a d ∨ i = .writeInv a d) :
    ∃ k, i = writeInstr k a d := by
  rcases h with rfl | rfl | rfl | rfl
  · exact ⟨.assign, rfl⟩
  · exact ⟨.clear, rfl⟩
  · exact ⟨.set, rfl⟩
  · exact ⟨.invert, rfl⟩

/-- What an instruction is and does when it takes `s` to `t`: the cases of `exec_cases`, with the four WRITE32
instructions as one. -/
inductive Served (s : State) : Instr → State → Prop
  | read (a : Word) (r : Reg) (k : View) : Running s → decodeAddr params a = some (r, k) →
      Served s (.read32 a)
        (respond .ok (some (readHook params r s).1) (symbolicName params r k) (readHook params r s).2)
  | write (a d : Word) (r : Reg) (j k : View) : Running s → decodeAddr params a = some (r, k) →
      Served s (writeInstr j a d) (writeDecoded params a r k d s)
  | raise (x : Word) : Running s → x.toNat < 192 → Served s (.irqRaise x) (respondDone (raiseFlag params x.toNat s))
  | clear (x : Word) : Running s → x.toNat < 192 → Served s (.irqClear x) (respondDone (clearFlag params x.toNat s))
  | lifecycle (i : Instr) : (i = .reset ∨ ∃ h, i = .init h) → Served s i (lifecycleReset params s)

theorem served_of_exec {i : Instr} {s t : State} (h : exec i s = .next t) : Served s i t := by
  rcases exec_cases h with ⟨hs, a, r, k, rfl, hd, rfl⟩ | ⟨hs, a, d, r, k, hi, hd, rfl⟩ | ⟨hs, x, rfl, hx, rfl⟩ |
    ⟨hs, x, rfl, hx, rfl⟩ | ⟨-, hi, rfl⟩
  · exact .read _ _ _ hs hd
  · obtain ⟨j, rfl⟩ := exists_writeInstr hi
    exact .write _ _ _ j _ hs hd
  · exact .raise _ hs hx
  · exact .clear _ hs hx
  · exact .lifecycle _ hi

/-! ### The registers -/

/-- The ways in which instruction `i`, taking `s` to `t`, can leave a register. -/
inductive RegChange (i : Instr) (s t : State) : Reg → Prop
  | kept {q} : t.rf.get q = s.rf.get q → RegChange i s t q
  | status : RegChange i s t .intstat
  | received {u} (b : Byte) : t.rf.get (.urxreg u) = receivedWord b → RegChange i s t (.urxreg u)
  | polled {u} : RegChange i s t (.usta u)
  | written {q} (j k : View) (d : Word) : i = writeInstr j (viewAddr q k) d → (params.regMap q).stored = true →
      t.rf.get q = mergeWrite (params.regMap q).roMask k (s.rf.get q) d → RegChange i s t q
  | flagged (x : Word) : i = .irqRaise x ∨ i = .irqClear x → RegChange i s t (.ifs (flagReg x.toNat))
  | softReset {q} (k : View) : WritesTo i (viewAddr .rswrst k) → s.seq = .unlocked →
      t.rf.get q = resetFile.get q → RegChange i s t q
  | lifecycle {q} : (i = .reset ∨ ∃ h, i = .init h) → t.rf.get q = resetFile.get q → RegChange i s t q

theorem FlagRequest.regChange {i : Instr} {s t : State} {x : Word} (h : FlagRequest x.toNat s t)
    (hi : i = .irqRaise x ∨ i = .irqClear x) (q : Reg) : RegChange i s (respondDone t) q := by
  rcases h.get q with hq | rfl | rfl
  · exact .kept hq
  · exact .status
  · exact .flagged x hi

/-- An instruction that answers can change a register in these ways only (rule R21). -/
theorem exec_regChange {i : Instr} {s t : State} (h : exec i s = .next t) (q : Reg) : RegChange i s t q := by
  cases served_of_exec h with
  | read a r k =>
    rcases readHook_get r s q with hq | ⟨u, b, rfl, hq⟩ | ⟨u, rfl⟩
    · exact .kept hq
    · exact .received b hq
    · exact .polled
  | write a d r j k _ hd =>
    obtain ⟨rfl, -⟩ := eq_viewAddr_of_decodes hd
    rcases writeDecoded_get (viewAddr r k) r k d s q with hq | ⟨rfl, hst, hq⟩ | ⟨rfl, -⟩ | ⟨rfl, hu, hrf⟩
    · exact .kept hq
    · exact .written j k d rfl hst hq
    · exact .status
    · exact .softReset k ⟨j, d, rfl⟩ hu (by rw [hrf])
  | raise => exact (raiseFlag_flagRequest _ s).regChange (.inl rfl) q
  | clear => exact (clearFlag_flagRequest _ s).regChange (.inr rfl) q
  | lifecycle _ hi => exact .lifecycle hi (by rw [lifecycleReset_ref])

/-! ### The outputs and the trace -/

/-- From `s` to `t` nothing was notified, and INTSTAT and the registers the arbiter reads are as they were. -/
structure Unnotified (s t : State) : Prop where
  quiet : NoNotification s t
  get_eq : ∀ q, ReadByArbiter q ∨ q = .intstat → t.rf.get q = s.rf.get q

theorem Unnotified.refl (s : State) : Unnotified s s :=
  ⟨.of_trace_eq rfl, fun _ _ => rfl⟩

theorem readHook_unnotified (r : Reg) (s : State) : Unnotified s (readHook params r s).2 := by
  refine ⟨readHook_noNotification r s, fun q hq => ?_⟩
  rcases readHook_get r s q with h | ⟨u, b, rfl, -⟩ | ⟨u, rfl⟩
  · exact h
  · simp [ReadByArbiter] at hq
  · simp [ReadByArbiter] at hq

theorem PlainWrite.unnotified {r : Reg} {k : View} {d : Word} {s t : State} (h : PlainWrite r k d s t) :
    Unnotified s t := by
  refine ⟨h.quiet, fun q hq => ?_⟩
  rw [h.rf_eq, storeWrite_get, if_neg]
  rintro ⟨rfl, hst⟩
  rcases hq with hq | rfl
  · exact h.unread hq
  · cases hst

/-- An instruction that answers leaves INTSTAT and what it is computed from alone, or it recomputes last of all and
notifies (rules R39, R42). -/
theorem exec_unnotified_or_notified {i : Instr} {s t : State} (h : exec i s = .next t) :
    Unnotified s t ∨ Notified s t := by
  have irq {n : Nat} {u : State} (hu : FlagRequest n s u) :
      Unnotified s (respondDone u) ∨ Notified s (respondDone u) := by
    rcases hu.eq_or_notified with rfl | hn
    · exact .inl ⟨.of_trace_eq rfl, fun _ _ => rfl⟩
    · exact .inr (hn.respond ..)
  cases served_of_exec h with
  | read a r k =>
    obtain ⟨hq, hg⟩ := readHook_unnotified r s
    exact .inl ⟨hq, hg⟩
  | write a d r j k =>
    have hstore : NoNotification s (storeWrite params r k d s) :=
      .of_trace_eq (by simp [storeWrite_keeps params r k d s])
    rcases writeDecoded_ref a r k d s with hp | ⟨-, he⟩ | ⟨-, -, he⟩
    · exact .inl hp.unnotified
    · exact .inr (he ▸ hstore.recompute.respond ..)
    · exact .inr (he ▸ (NoNotification.resetBody (by simp [storeWrite_keeps params r k d s])).respond ..)
  | raise => exact irq (raiseFlag_flagRequest _ s)
  | clear => exact irq (clearFlag_flagRequest _ s)
  | lifecycle => exact .inr ((NoNotification.resetBody rfl).respond ..)

/-- After an instruction that answers, the block takes requests. -/
theorem exec_running {i : Instr} {s t : State} (h : exec i s = .next t) : Running t := by
  cases served_of_exec h with
  | read a r k hs =>
    obtain ⟨-, hh, hi, -⟩ := readHook_keeps params r s
    exact ⟨hi.trans hs.1, hh.trans hs.2⟩
  | write a d r j k hs =>
    obtain ⟨hh, hi, -⟩ := writeDecoded_keeps params a r k d s
    exact ⟨hi.trans hs.1, hh.trans hs.2⟩
  | raise x hs =>
    obtain ⟨-, hh, hi⟩ := (raiseFlag_flagRequest _ s).keeps
    exact ⟨hi.trans hs.1, hh.trans hs.2⟩
  | clear x hs =>
    obtain ⟨-, hh, hi⟩ := (clearFlag_flagRequest _ s).keeps
    exact ⟨hi.trans hs.1, hh.trans hs.2⟩
  | lifecycle => exact ⟨rfl, rfl⟩

end Sys2Proof.Machine

/-! PROOFS. The statements on the state of the block (10_state.md): the status register and the invariant, the address
groups, the frames of writes and of interrupt requests, and who may change the sequencer and the flags. -/

namespace Sys2Proof.Machine

/-! ### INTSTAT and the notifications (rules R39, R42) -/

theorem Unnotified.statusConsistent {s t : State} (h : Unnotified s t) (hs : StatusConsistent params s) :
    StatusConsistent params t := by
  unfold StatusConsistent at *
  rw [h.get_eq _ (.inr rfl), arbitrate_congr fun r hr => h.get_eq r (.inl hr), hs]

theorem exec_statusConsistent {i : Instr} {s t : State} (h : exec i s = .next t) (hs : StatusConsistent params s) :
    StatusConsistent params t :=
  (exec_unnotified_or_notified h).elim (·.statusConsistent hs) And.left

theorem nextInbound_statusConsistent {s s' : State} {x : Inbound} (h : nextInbound s = some (x, s')) :
    StatusConsistent params s' ↔ StatusConsistent params s := by
  unfold StatusConsistent
  rw [(nextInbound_keeps h).1]

/-- Settles O53: an instruction leaves INTSTAT and what it is computed from alone, or recomputes and notifies last. -/
theorem stepKeepsStatusConsistent : Obligations.StepKeepsStatusConsistent := by
  refine ⟨fun s t hs h => ?_, fun i s t r h hr hne => ?_⟩
  · rcases step_cases h with ⟨-, rfl⟩ | ⟨q, s', i, hn, -, hx⟩
    · exact hs
    · exact exec_statusConsistent hx ((nextInbound_statusConsistent hn).mpr hs)
  · rcases exec_unnotified_or_notified h with hu | ⟨hc, es, htr, -⟩
    · exact absurd (hu.get_eq r (.inl hr)) hne
    · exact ⟨hc, es, _, _, htr⟩

theorem Unnotified.carriesOutputs {s t : State} (h : Unnotified s t) :
    ∃ es, t.trace = s.trace ++ es ∧
      (∀ l v, Event.notifyInterrupt l v ∈ es → l = irqLevel t ∧ v = irqVector t) ∧
      (t.rf.get .intstat ≠ s.rf.get .intstat → es.getLast? = some (.notifyInterrupt (irqLevel t) (irqVector t))) := by
  obtain ⟨es, htr, hn⟩ := h.quiet
  exact ⟨es, htr, fun l v hm => absurd hm (hn l v), fun hne => absurd (h.get_eq _ (.inr rfl)) hne⟩

/-- Settles O55: the one notification of an instruction comes last and carries the outputs it leaves. -/
theorem notificationCarriesOutputs : Obligations.NotificationCarriesOutputs := by
  intro s t h
  rcases step_cases h with ⟨-, rfl⟩ | ⟨q, s', i, hn, -, hx⟩
  · exact (Unnotified.refl t).carriesOutputs
  · obtain ⟨hrf, -, -, -, -, htr, -⟩ := nextInbound_keeps hn
    rw [← hrf, ← htr]
    rcases exec_unnotified_or_notified hx with hu | ⟨-, es, hes, hno⟩
    · exact hu.carriesOutputs
    · refine ⟨es ++ [.notifyInterrupt (irqLevel t) (irqVector t)], by rw [hes, List.append_assoc],
        fun l v hm => ?_, fun _ => List.getLast?_concat⟩
      rcases List.mem_append.mp hm with hm | hm
      · exact absurd hm (hno l v)
      · simpa using hm

/-! ### The invariant -/

/-- What the invariant asks of the value of one register. -/
def RegInv : Reg → Word → Prop
  | .syskey, v => v = 0#32
  | .devid, v => v = Config.devidReset
  | .utxreg _, v => v = 0#32
  | .spibuf _, v => v = 0#32
  | .urxreg _, v => v.extractLsb' 8 24 = 0#24
  | .spistat _, v => v &&& spistatRoMask = 0#32
  | _, _ => True

/-- The invariant is that the block runs, that INTSTAT is consistent, and a condition on each register. -/
theorem inv_iff (s : State) :
    Inv s ↔ Running s ∧ StatusConsistent params s ∧ ∀ q, RegInv q (s.rf.get q) := by
  refine and_congr_right fun _ => and_congr_right fun _ => ⟨?_, fun h => ?_⟩
  · rintro ⟨⟨hkey, hdev, htx, hbuf⟩, hrx, hspi⟩ q
    cases q with
    | syskey => exact hkey
    | devid => exact hdev
    | utxreg u => exact htx u
    | spibuf c => exact hbuf c
    | urxreg u => exact hrx u
    | spistat c => exact hspi c
    | _ => trivial
  · exact ⟨⟨h .syskey, h .devid, fun u => h (.utxreg u), fun c => h (.spibuf c)⟩, fun u => h (.urxreg u),
      fun c => h (.spistat c)⟩

theorem regInv_resetFile (q : Reg) : RegInv q (resetFile.get q) := by
  rw [resetFile_get]
  cases q with
  | syskey | devid | utxreg | spibuf => exact rfl
  | urxreg => exact (by decide : (0#32).extractLsb' 8 24 = 0#24)
  | spistat => exact (by decide : 0#32 &&& spistatRoMask = 0#32)
  | _ => trivial

/-- A received byte is zero-extended (rule R124). -/
theorem receivedWord_high (b : Byte) : (receivedWord b).extractLsb' 8 24 = 0#24 := by
  ext i hi
  simp [receivedWord, BitVec.getLsbD_of_ge]

/-- A permitted write keeps a register's condition: only SPIxSTAT has one, and there the mask protects it. -/
theorem regInv_mergeWrite {q : Reg} (hst : (params.regMap q).stored = true) {v : Word} (h : RegInv q v) (k : View)
    (d : Word) : RegInv q (mergeWrite (params.regMap q).roMask k v d) := by
  cases q with
  | spistat c => exact (mergeWrite_and_mask spistatRoMask k v d).trans h
  | syskey | devid | utxreg | spibuf | urxreg => cases hst
  | _ => trivial

theorem RegChange.regInv {i : Instr} {s t : State} {q : Reg} (hc : RegChange i s t q) (h : RegInv q (s.rf.get q)) :
    RegInv q (t.rf.get q) := by
  cases hc with
  | kept he => rwa [he]
  | received b he => rw [he]; exact receivedWord_high b
  | written _ k d _ hst he => rw [he]; exact regInv_mergeWrite hst h k d
  | softReset _ _ _ he => rw [he]; exact regInv_resetFile q
  | lifecycle _ he => rw [he]; exact regInv_resetFile q
  | status | polled | flagged => trivial

theorem exec_inv {i : Instr} {s t : State} (h : exec i s = .next t) (hs : Inv s) : Inv t := by
  obtain ⟨-, hc, hreg⟩ := (inv_iff s).mp hs
  exact (inv_iff t).mpr
    ⟨exec_running h, exec_statusConsistent h hc, fun q => (exec_regChange h q).regInv (hreg q)⟩

theorem nextInbound_inv {s s' : State} {x : Inbound} (h : nextInbound s = some (x, s')) (hs : Inv s) : Inv s' := by
  obtain ⟨hrf, -, hh, hi, -⟩ := nextInbound_keeps h
  obtain ⟨⟨hrun, hclear⟩, hc, hreg⟩ := (inv_iff s).mp hs
  exact (inv_iff s').mpr
    ⟨⟨hi.trans hrun, hh.trans hclear⟩, (nextInbound_statusConsistent h).mpr hc, by rwa [hrf]⟩

/-- Settles O54: the instruction a step serves keeps the latch clear, INTSTAT consistent and each register's
condition. -/
theorem stepKeepsInvariant : Obligations.StepKeepsInvariant := by
  intro s t hs h
  rcases step_cases h with ⟨-, rfl⟩ | ⟨q, s', i, hn, -, hx⟩
  · exact hs
  · exact exec_inv hx (nextInbound_inv hn hs)

/-! ### Address groups (rules R23, R24) -/

/-- Settles O10: over a well-formed table the decoder finds every view of every register, and only one. -/
theorem aliasGroupResolvesToOneRegister : Obligations.AliasGroupResolvesToOneRegister := by
  intro p hp
  have base (r : Reg) : decodeAddr p (p.regMap r).base = some (r, .assign) :=
    (decodeAddr_eq_some hp).mpr ⟨(BitVec.add_zero _).symm, .inl rfl⟩
  refine ⟨fun r ha => ?_, base, fun r q a k l hr hq => ?_⟩
  · have view (k : View) : decodeAddr p ((p.regMap r).base + viewOffset k) = some (r, k) :=
      (decodeAddr_eq_some hp).mpr ⟨rfl, .inr ha⟩
    exact ⟨base r, view .clear, view .set, view .invert⟩
  · have h : some (r, k) = some (q, l) := (decodeAddr_complete hp hr).symm.trans (decodeAddr_complete hp hq)
    simpa using h

/-! ### The frame of a write (rules R21, R104) -/

/-- Outside the soft reset, a write changes its own register, INTSTAT after a register the arbiter reads, and the
sequencer through SYSKEY. -/
theorem writeDecoded_frame (a : Word) (r : Reg) (k : View) (d : Word) (s : State) :
    (r = .rswrst ∧ s.seq = .unlocked ∧ (writeDecoded params a r k d s).seq = .locked ∧
      (writeDecoded params a r k d s).rf = resetFile) ∨
    ((∀ q, q ≠ r → (q = .intstat → ¬ReadByArbiter r) → (writeDecoded params a r k d s).rf.get q = s.rf.get q) ∧
      (r ≠ .syskey → (writeDecoded params a r k d s).seq = s.seq)) := by
  have hstore {q : Reg} (hq : q ≠ r) : (storeWrite params r k d s).rf.get q = s.rf.get q := by
    rw [storeWrite_get, if_neg fun h => hq h.1]
  rcases writeDecoded_ref a r k d s with h | ⟨hr, h⟩ | ⟨hr, hu, h⟩
  · exact .inr ⟨fun q hq _ => by rw [h.rf_eq, hstore hq], fun hk => by rw [h.seq_eq, if_neg hk]⟩
  · rw [h]
    refine .inr ⟨fun q hq hi => ?_, fun _ => (storeWrite_keeps params r k d s).1⟩
    rw [respond_rf, recomputeStatus_get, if_neg fun e => hi e hr, hstore hq]
  · exact .inl ⟨hr, hu, by rw [h]; rfl, by rw [h, respond_rf, resetBody_ref_rf]⟩

/-- A WRITE32 that answers is the decoded write. -/
theorem exec_write_eq_next {j k : View} {a d : Word} {r : Reg} {s t : State} (hd : decodeAddr params a = some (r, k))
    (h : exec (writeInstr j a d) s = .next t) : t = writeDecoded params a r k d s := by
  rw [exec_writeInstr] at h
  obtain ⟨r', k', hd', rfl⟩ := writePipeline_eq_next (serve_eq_next h).2
  obtain ⟨rfl, rfl⟩ : r = r' ∧ k = k' := by simpa using hd.symm.trans hd'
  rfl

/-- Settles O34: a WRITE32 is the decoded write, whose frame is known. -/
theorem writeFrame : Obligations.WriteFrame := by
  rintro s t i a r k ⟨j, d, rfl⟩ hd h
  obtain rfl := exec_write_eq_next hd h
  exact ⟨writeDecoded_frame a r k d s, writeDecoded_keeps params a r k d s⟩

/-! ### Before the first RESET or INIT (rule R49) -/

/-- RESET and INIT are served by the lifecycle's one operation. -/
theorem exec_lifecycle {i : Instr} (hi : i = .reset ∨ ∃ h, i = .init h) (s : State) :
    exec i s = serveLifecycle s (lifecycleResult params) := by
  rcases hi with rfl | ⟨_, rfl⟩ <;> rfl

/-- Settles O37: only RESET and INIT are served without asking whether the block is initialised. -/
theorem beforeInitOnlyLifecycleCompletes : Obligations.BeforeInitOnlyLifecycleCompletes := by
  intro s i hs
  refine ⟨fun hreset hinit => ?_, fun hi => ?_⟩
  · cases i with
    | read32 | writeAssign | writeClr | writeSet | writeInv | irqRaise | irqClear => exact serve_of_uninitialised hs _
    | reset => exact absurd rfl hreset
    | init x => exact absurd rfl (hinit x)
  · refine ⟨lifecycleReset params s, ?_, by rw [lifecycleReset_ref], rfl, rfl, rfl⟩
    rw [exec_lifecycle hi, serveLifecycle_of_ready (.inl hs)]
    rfl

/-! ### The sources (rules R34 to R36, R47) -/

@[simp] theorem flagSet_set_intstat (rf : RegFile) (w : Word) (i : Nat) :
    flagSet (rf.set .intstat w) i = flagSet rf i := by
  simp [flagSet, RegFile.get_set]

@[simp] theorem enableSet_set_intstat (rf : RegFile) (w : Word) (i : Nat) :
    enableSet (rf.set .intstat w) i = enableSet rf i := by
  simp [enableSet, RegFile.get_set]

@[simp] theorem prio_set_intstat (rf : RegFile) (w : Word) (i : Nat) : prio (rf.set .intstat w) i = prio rf i := by
  simp [prio, RegFile.get_set]

/-- A flag request changes no enable bit and no priority field. -/
theorem FlagRequest.enable_prio {n : Nat} {s t : State} (h : FlagRequest n s t) (j : Nat) :
    enableSet t.rf j = enableSet s.rf j ∧ prio t.rf j = prio s.rf j := by
  rcases h with rfl | ⟨w, rfl⟩ <;> simp

theorem flagSet_raiseFlag {i j : Nat} (hi : i < 192) (hj : j < 192) (s : State) :
    flagSet (raiseFlag params i s).rf j = (decide (j = i) || flagSet s.rf j) := by
  rcases raiseFlag_cases i s with ⟨h, hf⟩ | h
  · rw [h]
    by_cases e : j = i
    · simp [e, hf]
    · simp [e]
  · rw [h, recomputeStatus_rf, flagSet_set_intstat]
    exact flagSet_raised hi hj

theorem flagSet_clearFlag {i j : Nat} (hi : i < 192) (hj : j < 192) (s : State) :
    flagSet (clearFlag params i s).rf j = (!decide (j = i) && flagSet s.rf j) := by
  rcases clearFlag_cases i s with ⟨h, hf⟩ | h
  · rw [h]
    by_cases e : j = i
    · simp [e, hf]
    · simp [e]
  · rw [h, recomputeStatus_rf, flagSet_set_intstat]
    exact flagSet_cleared hi hj

/-- Settles O41: the request writes one bit of one flag register, and a source's flag is its own bit. -/
theorem oneSourceChangesPerRequest : Obligations.OneSourceChangesPerRequest := by
  intro s t x
  refine ⟨fun h => ?_, fun h => ?_⟩
  · obtain ⟨hx, rfl⟩ := irqRaise_eq_next (serve_eq_next h).2
    exact ⟨by simp [flagSet_raiseFlag hx hx], fun j hj hne => by simp [flagSet_raiseFlag hx hj, hne],
      (raiseFlag_flagRequest _ s).enable_prio⟩
  · obtain ⟨hx, rfl⟩ := irqClear_eq_next (serve_eq_next h).2
    exact ⟨by simp [flagSet_clearFlag hx hx], fun j hj hne => by simp [flagSet_clearFlag hx hj, hne],
      (clearFlag_flagRequest _ s).enable_prio⟩

theorem flagReg_of_position (n : Fin 6) (b : Fin 32) : flagReg (32 * n.val + b.val) = n :=
  Fin.ext (by rw [flagReg_val (by omega)]; omega)

theorem flagBit_of_position (n : Fin 6) (b : Fin 32) : flagBit (32 * n.val + b.val) = b.val := by
  rw [flagBit_eq]; omega

/-- The priority field of the source at place `c` of IPC register `m`. -/
theorem prio_of_position (rf : RegFile) (m : Fin 48) {c : Nat} (hc : c < 4) :
    prio rf (4 * m.val + c) = (rf.get (.ipc m)).extractLsb' (2 + 8 * c) 3 := by
  have hr : ipcReg (4 * m.val + c) = m := Fin.ext (by rw [ipcReg_val (by omega)]; omega)
  have hs : ipcShift (4 * m.val + c) = 2 + 8 * c := by rw [ipcShift_eq]; omega
  rw [prio, hr, hs]

/-- Distinct sources below 192 with one priority register have fields that do not meet. -/
theorem ipcShift_disjoint {i j : Nat} (hi : i < 192) (hj : j < 192) (hne : i ≠ j) (h : ipcReg i = ipcReg j) :
    ipcShift i + 3 ≤ ipcShift j ∨ ipcShift j + 3 ≤ ipcShift i := by
  have hq : i / 4 = j / 4 := by rw [← ipcReg_val hi, ← ipcReg_val hj, h]
  rw [ipcShift_eq, ipcShift_eq]
  omega

/-- Settles O42: an index below 192 is its register and its place in it. -/
theorem sourcesHaveTheirOwnPosition : Obligations.SourcesHaveTheirOwnPosition := by
  refine ⟨fun rf n b => ?_, fun rf m => ?_, fun i j hi hj hne => ⟨fun h => ?_, ipcShift_disjoint hi hj hne⟩⟩
  · rw [flagSet, enableSet, flagReg_of_position, flagBit_of_position]
    exact ⟨rfl, rfl⟩
  · exact ⟨prio_of_position rf m (c := 0) (by decide), prio_of_position rf m (c := 1) (by decide),
      prio_of_position rf m (c := 2) (by decide), prio_of_position rf m (c := 3) (by decide)⟩
  · obtain ⟨hr, hb⟩ := Prod.mk.injEq .. ▸ h
    exact hne (flag_position_inj hi hj hr hb)

/-! ### The flags (rule R47) -/

/-- Settles O58: of the ways a register can change, a flag register has its own requests, its own writes and the
resets. -/
theorem flagsChangeOnlyByTheirOwnRequests : Obligations.FlagsChangeOnlyByTheirOwnRequests := by
  intro i s t n h hne
  have hc : RegChange i s t (.ifs n) := exec_regChange h (.ifs n)
  cases hc with
  | kept he => exact absurd he hne
  | flagged x hi => exact .inl ⟨x, hi, rfl⟩
  | written j k d hi => exact .inr (.inl ⟨k, j, d, hi⟩)
  | softReset k hw hu => exact .inr (.inr (.inl ⟨k, hw, hu⟩))
  | lifecycle hi => exact .inr (.inr (.inr hi))

/-! ### The sequencer (rule R40) -/

/-- An address that decodes to SYSKEY is its base: SYSKEY has no other view (rule R24). -/
theorem decodes_syskey {a : Word} {k : View} (h : decodeAddr params a = some (.syskey, k)) :
    a = viewAddr .syskey .assign := by
  obtain ⟨rfl, rfl | ha⟩ := eq_viewAddr_of_decodes h
  · rfl
  · cases ha

/-- The sequencer reaches Unlocked only from Stage1, by the second key. -/
theorem nextSeq_eq_unlocked {q : Sequencer} {d : Word} (h : nextSeq q d = .unlocked) :
    q = .stage1 ∧ d = secondKey := by
  cases q with
  | locked => by_cases hd : d = firstKey <;> simp [nextSeq, hd] at h
  | stage1 => by_cases hd : d = secondKey <;> simp_all [nextSeq]
  | unlocked => cases h

/-- The ways in which an instruction can leave the sequencer. -/
theorem exec_seq {i : Instr} {s t : State} (h : exec i s = .next t) :
    t.seq = s.seq ∨
    (∃ j d, i = writeInstr j (viewAddr .syskey .assign) d ∧ t.seq = nextSeq s.seq d) ∨
    (∃ k, WritesTo i (viewAddr .rswrst k) ∧ s.seq = .unlocked ∧ t.seq = .locked) ∨
    ((i = .reset ∨ ∃ h, i = .init h) ∧ t.seq = .locked) := by
  cases served_of_exec h with
  | read a r k => exact .inl (readHook_keeps params r s).1
  | write a d r j k _ hd =>
    rcases writeDecoded_frame a r k d s with ⟨rfl, hu, hl, -⟩ | ⟨-, hk⟩
    · obtain ⟨rfl, -⟩ := eq_viewAddr_of_decodes hd
      exact .inr (.inr (.inl ⟨k, ⟨j, d, rfl⟩, hu, hl⟩))
    · by_cases hr : r = .syskey
      · subst hr
        exact .inr (.inl ⟨j, d, by rw [decodes_syskey hd], rfl⟩)
      · exact .inl (hk hr)
  | raise x => exact .inl (raiseFlag_flagRequest _ s).keeps.1
  | clear x => exact .inl (clearFlag_flagRequest _ s).keeps.1
  | lifecycle _ hi => exact .inr (.inr (.inr ⟨hi, rfl⟩))

/-- Settles O56: of the ways the sequencer can move, only a SYSKEY write of the second key in Stage1 unlocks. -/
theorem sequencerChangesOnlyByKeyOrReset : Obligations.SequencerChangesOnlyByKeyOrReset := by
  intro i s t h
  rcases exec_seq h with hs | ⟨j, d, rfl, hs⟩ | ⟨k, hw, hu, hl⟩ | ⟨hi, hl⟩
  · exact ⟨fun hne => absurd hs hne, fun ht hn => absurd (hs.symm.trans ht) hn⟩
  · refine ⟨fun _ => .inl ⟨j, d, rfl⟩, fun ht _ => ?_⟩
    obtain ⟨hq, rfl⟩ := nextSeq_eq_unlocked (hs.symm.trans ht)
    exact ⟨hq, j, rfl⟩
  · exact ⟨fun _ => .inr (.inl ⟨k, hw, hu, hl⟩), fun _ hn => absurd hu hn⟩
  · refine ⟨fun _ => .inr (.inr ⟨hi, hl⟩), fun ht => ?_⟩
    rw [hl] at ht
    cases ht

/-! ### What does not depend on the sequencer (rules R40, R131) -/

/-- `s` with another sequencer state. -/
def setSeq (q : Sequencer) (s : State) : State :=
  { s with seq := q }

theorem dropRxAnswer_setSeq (q : Sequencer) (s : State) : dropRxAnswer (setSeq q s) = setSeq q (dropRxAnswer s) := by
  obtain ⟨_, _, _, _, _, _, _, _, _, rx, _, _, _⟩ := s
  cases rx <;> rfl

theorem dropStaAnswer_setSeq (q : Sequencer) (s : State) :
    dropStaAnswer (setSeq q s) = setSeq q (dropStaAnswer s) := by
  obtain ⟨_, _, _, _, _, _, _, _, _, _, sta, _, _⟩ := s
  cases sta <;> rfl

theorem dropSpiAnswer_setSeq (q : Sequencer) (s : State) :
    dropSpiAnswer (setSeq q s) = setSeq q (dropSpiAnswer s) := by
  obtain ⟨_, _, _, _, _, _, _, _, _, _, _, spi, _⟩ := s
  cases spi <;> rfl

theorem uartRxHook_setSeq (u : Fin 6) (q : Sequencer) (s : State) :
    uartRxHook u (setSeq q s) = ((uartRxHook u s).1, setSeq q (uartRxHook u s).2) := by
  have ha : rxAnswer (setSeq q s) = rxAnswer s := rfl
  have hc (e : Event) : callBackend e (setSeq q s) = setSeq q (callBackend e s) := rfl
  unfold uartRxHook
  rw [ha, hc, dropRxAnswer_setSeq]
  cases rxAnswer s <;> rfl

theorem uartStaHook_setSeq (u : Fin 6) (q : Sequencer) (s : State) :
    uartStaHook u (setSeq q s) = ((uartStaHook u s).1, setSeq q (uartStaHook u s).2) := by
  have ha : staAnswer (setSeq q s) = staAnswer s := rfl
  have hc (e : Event) : callBackend e (setSeq q s) = setSeq q (callBackend e s) := rfl
  unfold uartStaHook
  rw [ha, hc, dropStaAnswer_setSeq]
  cases staAnswer s <;> rfl

/-- A read hook neither reads nor moves the sequencer. -/
theorem readHook_setSeq (r : Reg) (q : Sequencer) (s : State) :
    readHook params r (setSeq q s) = ((readHook params r s).1, setSeq q (readHook params r s).2) := by
  unfold readHook
  split
  · rfl
  · exact uartRxHook_setSeq _ q s
  · exact uartStaHook_setSeq _ q s
  · exact congrArg (Prod.mk _) (dropSpiAnswer_setSeq q (callBackend _ s))

/-- The write hook of a register other than SYSKEY and RSWRST neither reads nor moves the sequencer. -/
theorem writeHook_setSeq {r : Reg} (hk : r ≠ .syskey) (hw : r ≠ .rswrst) (d : Word) (q : Sequencer) (s : State) :
    writeHook params r d (setSeq q s) = setSeq q (writeHook params r d s) := by
  cases r with
  | syskey => exact absurd rfl hk
  | rswrst => exact absurd rfl hw
  | _ => rfl

theorem storeWrite_setSeq (r : Reg) (k : View) (d : Word) (q : Sequencer) (s : State) :
    storeWrite params r k d (setSeq q s) = setSeq q (storeWrite params r k d s) := by
  unfold storeWrite
  split <;> rfl

theorem writeDecoded_setSeq {r : Reg} (hk : r ≠ .syskey) (hw : r ≠ .rswrst) (a : Word) (k : View) (d : Word)
    (q : Sequencer) (s : State) :
    writeDecoded params a r k d (setSeq q s) = setSeq q (writeDecoded params a r k d s) := by
  unfold writeDecoded
  split
  · rfl
  · rw [storeWrite_setSeq, writeHook_setSeq hk hw]; rfl

theorem raiseFlag_setSeq (i : Nat) (q : Sequencer) (s : State) :
    raiseFlag params i (setSeq q s) = setSeq q (raiseFlag params i s) := by
  have hrf : (setSeq q s).rf = s.rf := rfl
  unfold raiseFlag
  rw [hrf]
  split <;> rfl

theorem clearFlag_setSeq (i : Nat) (q : Sequencer) (s : State) :
    clearFlag params i (setSeq q s) = setSeq q (clearFlag params i s) := by
  have hrf : (setSeq q s).rf = s.rf := rfl
  unfold clearFlag
  rw [hrf]
  split <;> rfl

/-- Settles O57: no operation such an instruction runs reads or moves the sequencer. -/
theorem sequencerIsNotReadable : Obligations.SequencerIsNotReadable := by
  intro i s t q h hreset hinit hdec
  show exec i (setSeq q s) = .next (setSeq q t)
  cases served_of_exec h with
  | read a r k hs hd =>
    obtain ⟨rfl, hv⟩ := eq_viewAddr_of_decodes hd
    rw [exec_read_view hv (s := setSeq q s) hs, readHook_setSeq]
    rfl
  | write a d r j k hs hd =>
    obtain ⟨hk, hw⟩ := hdec a ⟨j, d, rfl⟩ k
    rw [exec_writeInstr, serve_of_running (s := setSeq q s) hs, writePipeline, hd]
    refine congrArg _ (writeDecoded_setSeq ?_ ?_ a k d q s)
    · rintro rfl
      exact hk hd
    · rintro rfl
      exact hw hd
  | raise x hs hx => rw [exec_irqRaise_of_lt (s := setSeq q s) hs hx, raiseFlag_setSeq]; rfl
  | clear x hs hx => rw [exec_irqClear_of_lt (s := setSeq q s) hs hx, clearFlag_setSeq]; rfl
  | lifecycle _ hi =>
    rcases hi with rfl | ⟨x, rfl⟩
    · exact absurd rfl hreset
    · exact absurd rfl (hinit x)

end Sys2Proof.Machine

/-! SUPPORT. What the bits of an address say of the register it decodes to, and which request a step serves. -/

namespace Sys2Proof.Machine

/-! ### The bits of a decoded address (rules R53 to R55) -/

/-- The bits [3:2] of a view's offset tell the four views apart (rule R54). -/
theorem viewOffset_bits_inj {k l : View} :
    (viewOffset k).extractLsb' 2 2 = (viewOffset l).extractLsb' 2 2 ↔ k = l := by
  cases k <;> cases l <;> decide

/-- The bits of a view's address, whether or not the register has that view: its base and its view's bits. -/
theorem base_add_viewOffset_bits {p : Params} (hp : Params.wf p = true) (r : Reg) (k : View) :
    ((p.regMap r).base + viewOffset k) &&& 0xFFFFFFF0#32 = (p.regMap r).base ∧
      ((p.regMap r).base + viewOffset k).extractLsb' 2 2 = (viewOffset k).extractLsb' 2 2 := by
  have haligned : (p.regMap r).base.toNat % 16 = 0 := by
    simpa [RegDesc.aligned] using ((RegMap.wf_iff.mp (Params.wf_iff.mp hp).1).1 r).1
  obtain ⟨hbase, -, hview⟩ := base_add_viewOffset haligned k
  exact ⟨hbase, hview.trans (by cases k <;> decide)⟩

/-- A decoded address holds its register's base and its view's bits. -/
theorem decodeAddr_bits {p : Params} (hp : Params.wf p = true) {a : Word} {r : Reg} {k : View}
    (h : decodeAddr p a = some (r, k)) :
    a &&& 0xFFFFFFF0#32 = (p.regMap r).base ∧ a.extractLsb' 2 2 = (viewOffset k).extractLsb' 2 2 := by
  obtain ⟨rfl, -⟩ := (decodeAddr_eq_some hp).mp h
  exact base_add_viewOffset_bits hp r k

/-- Over a well-formed table a register is told by its base. -/
theorem base_inj {p : Params} (hp : Params.wf p = true) {r q : Reg} (h : (p.regMap r).base = (p.regMap q).base) :
    r = q := by
  have base (x : Reg) : decodeAddr p (p.regMap x).base = some (x, .assign) :=
    (decodeAddr_eq_some hp).mpr ⟨(BitVec.add_zero _).symm, .inl rfl⟩
  have hrq := base r
  rw [h, base q] at hrq
  simpa using hrq.symm

/-- The address of an alias view of a register without views is Unmapped (rule R55): its base is that register's
alone. -/
theorem decodeAddr_of_undeclared {p : Params} (hp : Params.wf p = true) {r : Reg} {k : View}
    (ha : (p.regMap r).aliased = false) (hk : k ≠ .assign) :
    decodeAddr p ((p.regMap r).base + viewOffset k) = none := by
  cases hd : decodeAddr p ((p.regMap r).base + viewOffset k) with
  | none => rfl
  | some x =>
    obtain ⟨q, l⟩ := x
    obtain ⟨hbase, hbits⟩ := base_add_viewOffset_bits hp r k
    obtain ⟨hbase', hbits'⟩ := decodeAddr_bits hp hd
    obtain rfl : r = q := base_inj hp (hbase.symm.trans hbase')
    obtain rfl : k = l := viewOffset_bits_inj.mp (hbits.symm.trans hbits')
    obtain ⟨-, hl⟩ := (decodeAddr_eq_some hp).mp hd
    simp [hk, ha] at hl

/-! ### The request a step serves (rules R57, R69, R139) -/

theorem nextInbound_of_irqPending {s : State} {q : BackendIrq} {qs : List BackendIrq} (h : s.irqPending = q :: qs) :
    nextInbound s = some (.request q.toRequest, { s with irqPending := qs }) := by
  rw [nextInbound, h]

theorem nextInbound_of_inbox {s : State} {x : Inbound} {xs : List Inbound} (hp : s.irqPending = [])
    (h : s.inbox = x :: xs) : nextInbound s = some (x, { s with inbox := xs }) := by
  rw [nextInbound, hp, h]

theorem nextInbound_of_nothing {s : State} (hp : s.irqPending = []) (h : s.inbox = []) : nextInbound s = none := by
  rw [nextInbound, hp, h]

theorem step_of_nextInbound {s s' : State} {x : Inbound} (h : nextInbound s = some (x, s')) :
    step s = serveInbound x s' := by
  rw [step, stepOnce, h]

theorem step_of_nothing {s : State} (h : nextInbound s = none) : step s = idle s := by
  rw [step, stepOnce, h]

/-- A block that is not halted idles in place (log entry 6). -/
theorem idle_of_not_halted {s : State} (h : s.halted = none) : idle s = .next s := by
  have hf : haltFault s = none := by simp [haltFault, h]
  rw [idle, hf]

/-- A step that finds a request which decodes is its instruction. -/
theorem step_of_decode {s s' : State} {q : Request} {i : Instr} (h : nextInbound s = some (.request q, s'))
    (hq : decode q = .ok i) : step s = exec i s' := by
  rw [step_of_nextInbound h, serveInbound, serveRequest, hq]

/-- A step that finds a request which does not decode is its rejection. -/
theorem step_of_reject {s s' : State} {q : Request} {e : Reject} (h : nextInbound s = some (.request q, s'))
    (hq : decode q = .error e) : step s = serveReject e s' := by
  rw [step_of_nextInbound h, serveInbound, serveRequest, hq]

/-- A placed request is the next one served, before any backend's (log entry 10). -/
theorem nextInbound_placeRequest (q : Request) (s : State) :
    nextInbound (placeRequest q s) = some (.request q, { s with irqPending := [] }) := rfl

theorem decode_backendRaise (x : Word) : decode (BackendIrq.raise x).toRequest = .ok (.irqRaise x) := by
  have hkey : opcodeOfKey (requestKey (BackendIrq.raise x).toRequest) = some .irqRaise :=
    (Laws.OpcodeRow.key_of_kind _).1
  rw [decode, hkey]
  rfl

theorem decode_backendClear (x : Word) : decode (BackendIrq.clear x).toRequest = .ok (.irqClear x) := by
  have hkey : opcodeOfKey (requestKey (BackendIrq.clear x).toRequest) = some .irqClear :=
    (Laws.OpcodeRow.key_of_kind _).2.1
  rw [decode, hkey]
  rfl

/-! ### Unaligned accesses (rules R55, R87) -/

/-- No row of the opcode map takes a bus access whose address bits [1:0] are not 00. -/
theorem opcodeOfKey_of_unaligned {kind : BitVec 3} {low : BitVec 4} (hk : kind = 0b000#3 ∨ kind = 0b001#3)
    (h : low.extractLsb' 0 2 ≠ 0#2) : opcodeOfKey (kind ++ low) = none := by
  rcases hk with rfl | rfl <;> revert low <;> decide

theorem decode_of_unaligned {a : Word} (h : a.extractLsb' 0 2 ≠ 0#2) (d : Word) :
    decode ⟨0b000#3, a, d⟩ = .error (.unaligned a .read) ∧ decode ⟨0b001#3, a, d⟩ = .error (.unaligned a .write) := by
  have hlow : (a.extractLsb' 0 4).extractLsb' 0 2 ≠ 0#2 := by rwa [Laws.OpcodeRow.low_two_of_four]
  constructor
  · rw [decode, requestKey, opcodeOfKey_of_unaligned (.inl rfl) hlow]
    rfl
  · rw [decode, requestKey, opcodeOfKey_of_unaligned (.inr rfl) hlow]
    rfl

/-- A running block that is asked for an unaligned access raises UnmappedAddress (rule R87). -/
theorem step_place_unaligned {s : State} (hs : Running s) {q : Request} {a : Word} {dir : Dir}
    (hq : decode q = .error (.unaligned a dir)) :
    step (placeRequest q s) = raiseFatal a dir { s with irqPending := [] } := by
  rw [step_of_reject (nextInbound_placeRequest q s) hq]
  exact serve_of_running (s := { s with irqPending := [] }) hs (raiseFatal a dir)

end Sys2Proof.Machine

/-! PROOFS. The statements on addresses and on the order of requests (20_memory.md). -/

namespace Sys2Proof.Machine

/-- Settles O9: a decoded address is its register's base and its view's offset, which meet in no bit. -/
theorem decodedViewIsAddressBits : Obligations.DecodedViewIsAddressBits := by
  intro p a r k hp hd
  obtain ⟨hbase, hbits⟩ := decodeAddr_bits hp hd
  have hview (l : View) : k = l ↔ a.extractLsb' 2 2 = (viewOffset l).extractLsb' 2 2 := by
    rw [hbits, viewOffset_bits_inj]
  exact ⟨hview .assign, hview .clear, hview .set, hview .invert, hbase.symm⟩

/-- Settles O11: the bits of a decoded address leave no register for these, and the decoder rejects an unaligned
access as a fatal one. -/
theorem unalignedAndUndeclaredAreUnmapped : Obligations.UnalignedAndUndeclaredAreUnmapped := by
  refine ⟨fun p a => decodeAddr_of_unaligned, fun p r hp ha => ?_, fun s a d hs h => ?_⟩
  · exact ⟨decodeAddr_of_undeclared hp ha (k := .clear) nofun, decodeAddr_of_undeclared hp ha (k := .set) nofun,
      decodeAddr_of_undeclared hp ha (k := .invert) nofun⟩
  · obtain ⟨hread, hwrite⟩ := decode_of_unaligned h d
    exact ⟨step_place_unaligned hs hread, step_place_unaligned hs hwrite⟩

/-- Settles O7: one clause for each thing that can be next: an arrival, a backend's raise, its clear, nothing. -/
theorem stepRunsDecodedRequest : Obligations.StepRunsDecodedRequest := by
  refine ⟨fun s q xs i hp hin hq => ?_, fun s x qs hp => ?_, fun s x qs hp => ?_, fun s hp hin hh => ?_⟩
  · exact step_of_decode (nextInbound_of_inbox hp hin) hq
  · exact step_of_decode (nextInbound_of_irqPending hp) (decode_backendRaise x)
  · exact step_of_decode (nextInbound_of_irqPending hp) (decode_backendClear x)
  · rw [step_of_nothing (nextInbound_of_nothing hp hin), idle_of_not_halted hh]

end Sys2Proof.Machine

/-! SUPPORT. The decoder as the opcode map with operands: when a request decodes and to what, that it undoes the
encoder, and which requests it rejects. -/

namespace Sys2Proof.Machine

/-! ### Decoding is the opcode map with the request's operands (rules R81, R85) -/

theorem opcodeOf_withOperands (op : Opcode) (q : Request) : opcodeOf (withOperands op q) = op := by
  cases op <;> rfl

theorem decode_of_opcode {q : Request} {op : Opcode} (h : opcodeOfKey (requestKey q) = some op) :
    decode q = .ok (withOperands op q) := by
  rw [decode, h]

/-- A record decodes by its kind and `addr[3:0]` (rule R85). -/
theorem decode_of_key {kind : BitVec 3} {a : Word} {op : Opcode}
    (h : opcodeOfKey (kind ++ a.extractLsb' 0 4) = some op) (d : Word) :
    decode ⟨kind, a, d⟩ = .ok (withOperands op ⟨kind, a, d⟩) :=
  decode_of_opcode h

theorem decode_of_no_opcode {q : Request} (h : opcodeOfKey (requestKey q) = none) :
    decode q = .error (rejectOf q) := by
  rw [decode, h]

theorem decode_eq_ok {q : Request} {i : Instr} :
    decode q = .ok i ↔ ∃ op, opcodeOfKey (requestKey q) = some op ∧ withOperands op q = i := by
  cases h : opcodeOfKey (requestKey q) with
  | none => simp [decode_of_no_opcode h]
  | some op => simp [decode_of_opcode h]

/-- The opcode of what a request decodes to is the one its key selects (rule R89). -/
theorem opcode_of_decode (q : Request) : (decode q).toOption.map opcodeOf = opcodeOfKey (requestKey q) := by
  cases h : opcodeOfKey (requestKey q) with
  | none => rw [decode_of_no_opcode h]; rfl
  | some op => rw [decode_of_opcode h]; exact congrArg some (opcodeOf_withOperands op q)

/-! ### Decoding undoes encoding (rules R80 to R85) -/

theorem opcodeOfKey_encode (i : Instr) : Laws.OpcodeRow.Statement i := by
  cases i with
  | read32 a => exact Laws.OpcodeRow.read32 a
  | writeAssign a d => exact Laws.OpcodeRow.writeAssign a d
  | writeClr a d => exact Laws.OpcodeRow.writeClr a d
  | writeSet a d => exact Laws.OpcodeRow.writeSet a d
  | writeInv a d => exact Laws.OpcodeRow.writeInv a d
  | irqRaise x => exact Laws.OpcodeRow.irqRaise x
  | irqClear x => exact Laws.OpcodeRow.irqClear x
  | reset => exact Laws.OpcodeRow.reset
  | init h => exact Laws.OpcodeRow.init h

/-- The encoder writes every operand where the decoder reads it (rule R81). -/
theorem withOperands_encode (i : Instr) : withOperands (opcodeOf i) (encode i) = i := by
  cases i <;> rfl

theorem decode_encode {i : Instr} (h : i.wf = true) : decode (encode i) = .ok i := by
  rw [decode_of_opcode (opcodeOfKey_encode i h), withOperands_encode]

/-- A key in a row of the opcode map has that row's kind and low address bits (rules R83, R85). -/
theorem wf_and_kind_of_opcode {q : Request} {op : Opcode} (h : opcodeOfKey (requestKey q) = some op) :
    (withOperands op q).wf = true ∧ (encode (withOperands op q)).kind = q.kind := by
  rw [requestKey, opcodeOfKey_cases, Laws.OpcodeRow.low_two_of_four] at h
  split_ifs at h <;>
    · obtain rfl := Option.some.inj h
      simp [withOperands, Instr.wf, encode, *]

/-- A bus request is encoded with its address (rule R81). -/
theorem encode_addr_of_bus {op : Opcode} {q : Request}
    (h : (encode (withOperands op q)).kind = 0b000#3 ∨ (encode (withOperands op q)).kind = 0b001#3) :
    (encode (withOperands op q)).addr = q.addr := by
  cases op with
  | read32 | writeAssign | writeClr | writeSet | writeInv => rfl
  | irqRaise | irqClear | reset | init => simp [withOperands, encode] at h

/-- Only READ32 and RESET are encoded without the data of their request (rule R81). -/
theorem encode_data_of_used {op : Opcode} {q : Request}
    (h : (encode (withOperands op q)).kind ≠ 0b000#3 ∧ (encode (withOperands op q)).kind ≠ 0b100#3) :
    (encode (withOperands op q)).data = q.data := by
  cases op with
  | writeAssign | writeClr | writeSet | writeInv | irqRaise | irqClear | init => rfl
  | read32 => exact absurd rfl h.1
  | reset => exact absurd rfl h.2

/-! ### The requests of each kind (rules R81, R85, R86) -/

theorem decode_read32 {a : Word} (h : a.extractLsb' 0 2 = 0#2) (d : Word) :
    decode ⟨0b000#3, a, d⟩ = .ok (.read32 a) :=
  decode_of_key (Laws.OpcodeRow.key_of_aligned_read h) d

theorem encode_writeInstr (k : View) (a d : Word) : encode (writeInstr k a d) = ⟨0b001#3, a, d⟩ := by
  cases k <;> rfl

theorem writeInstr_wf {k : View} {a d : Word} :
    (writeInstr k a d).wf = true ↔ a.extractLsb' 0 4 = (viewOffset k).extractLsb' 0 4 := by
  cases k <;> exact beq_iff_eq

theorem decode_write {k : View} {a : Word} (h : a.extractLsb' 0 4 = (viewOffset k).extractLsb' 0 4) (d : Word) :
    decode ⟨0b001#3, a, d⟩ = .ok (writeInstr k a d) := by
  rw [← encode_writeInstr k]
  exact decode_encode (writeInstr_wf.mpr h)

theorem decode_irqRaise (a d : Word) : decode ⟨0b010#3, a, d⟩ = .ok (.irqRaise d) :=
  decode_of_key (Laws.OpcodeRow.key_of_kind _).1 d

theorem decode_irqClear (a d : Word) : decode ⟨0b011#3, a, d⟩ = .ok (.irqClear d) :=
  decode_of_key (Laws.OpcodeRow.key_of_kind _).2.1 d

theorem decode_reset (a d : Word) : decode ⟨0b100#3, a, d⟩ = .ok .reset :=
  decode_of_key (Laws.OpcodeRow.key_of_kind _).2.2.1 d

theorem decode_init (a d : Word) : decode ⟨0b101#3, a, d⟩ = .ok (.init d) :=
  decode_of_key (Laws.OpcodeRow.key_of_kind _).2.2.2 d

/-- The four aligned values of `addr[3:0]` are those of the four views (rule R85). -/
theorem exists_view_of_aligned {a : Word} (h : a.extractLsb' 0 2 = 0#2) :
    ∃ k, a.extractLsb' 0 4 = (viewOffset k).extractLsb' 0 4 := by
  have aligned : ∀ low : BitVec 4, low.extractLsb' 0 2 = 0#2 →
      low = 0x0#4 ∨ low = 0x4#4 ∨ low = 0x8#4 ∨ low = 0xC#4 := by decide
  rcases aligned _ ((Laws.OpcodeRow.low_two_of_four a).trans h) with h | h | h | h
  · exact ⟨.assign, h⟩
  · exact ⟨.clear, h⟩
  · exact ⟨.set, h⟩
  · exact ⟨.invert, h⟩

/-- No row of the opcode map has kind 110 or 111 (rule R86). -/
theorem opcodeOfKey_of_reserved {kind : BitVec 3} (hk : kind = 0b110#3 ∨ kind = 0b111#3) (low : BitVec 4) :
    opcodeOfKey (kind ++ low) = none := by
  rcases hk with rfl | rfl <;> simp [opcodeOfKey_cases]

theorem decode_of_reserved {kind : BitVec 3} (hk : kind = 0b110#3 ∨ kind = 0b111#3) (a d : Word) :
    decode ⟨kind, a, d⟩ = .error (.reservedKind kind) := by
  rw [decode, requestKey, opcodeOfKey_of_reserved hk]
  rcases hk with rfl | rfl <;> rfl

/-- A request word decodes as the record it was packed from (rule R80). -/
theorem decode_word (kind : BitVec 3) (a d : Word) :
    decode (Request.ofBits (kind ++ a ++ d)) = decode ⟨kind, a, d⟩ :=
  congrArg decode (Request.ofBits_toBits ⟨kind, a, d⟩)

/-! ### Refused arrivals (rules R51, R86) -/

/-- A running block refuses a placed request of a reserved kind. -/
theorem step_place_reserved {s : State} (hs : Running s) {q : Request} {kind : BitVec 3}
    (hq : decode q = .error (.reservedKind kind)) : step (placeRequest q s) = .refused (.reservedKind kind) := by
  rw [step_of_reject (nextInbound_placeRequest q s) hq]
  exact serve_of_running (s := { s with irqPending := [] }) hs _

/-- A running block refuses a sub-word access that is next. -/
theorem step_subWordAccess {s s' : State} (hs : Running s') {a : Word} {dir : Dir}
    (h : nextInbound s = some (.subWordAccess a dir, s')) : step s = .refused (.subWordAccess a dir) := by
  rw [step_of_nextInbound h]
  exact serve_of_running hs _

/-- What `decodeTableWord` reads is what the decoder reads from the record of the word's bits. -/
theorem decodeTableWord_eq_some {nbits w : Nat} {i : Instr} :
    decodeTableWord nbits w = some i ↔ decode (Request.ofTableBits (w % 2 ^ nbits)) = .ok i := by
  unfold decodeTableWord
  cases decode (Request.ofTableBits (w % 2 ^ nbits)) <;> simp

end Sys2Proof.Machine

/-! PROOFS. The statements on the request encoding (30_encoding.md). -/

namespace Sys2Proof.Machine

/-- Settles O2: packing loses nothing, the encoded key selects the instruction's own row, and the row reads back the
operands. -/
theorem decodeEncodeAgree : Obligations.DecodeEncodeAgree := by
  intro i hwf
  rw [Request.ofBits_toBits]
  exact decode_encode hwf

/-- Settles O3: the row a key lies in fixes the kind and the low address bits, and the operands carry the fields the
instruction uses. -/
theorem decodeIsSound : Obligations.DecodeIsSound := by
  intro q i h
  obtain ⟨op, hop, rfl⟩ := decode_eq_ok.mp h
  obtain ⟨hwf, hkind⟩ := wf_and_kind_of_opcode hop
  refine ⟨hwf, hkind, decode_encode hwf, ?_⟩
  rw [← hkind]
  exact ⟨encode_addr_of_bus, encode_data_of_used⟩

/-- Settles O5: each kind decodes by a rule that does not name the ignored field; a READ32 is rejected, too, without
regard to its data. -/
theorem ignoredFieldsHaveNoEffect : Obligations.IgnoredFieldsHaveNoEffect := by
  refine ⟨fun a d d' => ?_, fun a d h => ⟨decode_read32 h d, ?_⟩, decode_irqRaise, decode_irqClear, decode_reset,
    decode_init, fun _ _ _ => rfl⟩
  · by_cases h : a.extractLsb' 0 2 = 0#2
    · rw [decode_read32 h, decode_read32 h]
    · rw [(decode_of_unaligned h d).1, (decode_of_unaligned h d').1]
  · obtain ⟨k, hk⟩ := exists_view_of_aligned h
    exact ⟨k, decode_write hk d⟩

/-- Settles O6: a running block serves what is next, and both of these are served by a refusal. -/
theorem reservedKindIsRefused : Obligations.ReservedKindIsRefused := by
  refine ⟨fun s a d k hs hk => step_place_reserved hs (decode_of_reserved hk a d), fun s a dir xs hs hp hin => ?_⟩
  exact step_subWordAccess (s' := { s with inbox := xs }) hs (nextInbound_of_inbox hp hin)

/-- Settles O1: each word is a packed record, which decodes by the rule of its kind. -/
theorem specWordsDecode : Obligations.SpecWordsDecode := by
  unfold Obligations.SpecWordsDecode
  simp only [decode_word]
  exact ⟨decode_read32 (by decide) _, decode_read32 (by decide) _, decode_write (k := .assign) (by decide) _,
    decode_write (k := .clear) (by decide) _, decode_write (k := .set) (by decide) _,
    decode_write (k := .invert) (by decide) _, decode_irqRaise _ _, decode_irqRaise _ _, decode_irqClear _ _,
    decode_reset _ _, decode_init _ _, (decode_of_unaligned (by decide) _).2, decode_of_reserved (.inl rfl) _ _⟩

/-- Settles O4: the opcode is a function of the key, and each of the 128 keys lies in at most one row. -/
theorem keyAloneSelectsInstruction : Obligations.KeyAloneSelectsInstruction := by
  refine ⟨fun q q' hkind hlow => ?_, by decide⟩
  have hkey : requestKey q = requestKey q' := by rw [requestKey, requestKey, hkind, hlow]
  rw [opcode_of_decode, opcode_of_decode, hkey]

/-- Settles O8: a placed word is the next request served. -/
theorem placedWordRuns : Obligations.PlacedWordRuns := fun _ _ _ _ h =>
  step_of_decode (nextInbound_placeRequest _ _) (decodeTableWord_eq_some.mp h)

end Sys2Proof.Machine

/-! SUPPORT. What a bus access does, by the kind of its register: a read without a hook, a read of UxRXREG, a write to
a read-only register, and a write to a stored one. -/

namespace Sys2Proof.Machine

/-! ### The views of REF (rules R23, R24) -/

/-- Every read-only register of REF has all four views. -/
theorem hasView_of_readOnly {r : Reg} (h : (params.regMap r).ro = true) (k : View) : HasView r k := by
  refine .inr ?_
  cases r with
  | intstat | devid | urxreg => rfl
  | _ => cases h

/-- Every stored register of REF has all four views: only the forward-only registers lack them. -/
theorem hasView_of_stored {r : Reg} (h : (params.regMap r).stored = true) (k : View) : HasView r k := by
  refine .inr ?_
  cases r with
  | syskey | utxreg | spibuf => cases h
  | _ => rfl

/-! ### The pipelines at a declared address (rules R103, R104) -/

theorem readPipeline_base {p : Params} (hp : Params.wf p = true) (r : Reg) (s : State) :
    readPipeline p (p.regMap r).base s =
      .next (respond .ok (some (readHook p r s).1) (symbolicName p r .assign) (readHook p r s).2) := by
  have hd : decodeAddr p (p.regMap r).base = some (r, .assign) :=
    (decodeAddr_eq_some hp).mpr ⟨(BitVec.add_zero _).symm, .inl rfl⟩
  rw [readPipeline, hd]

theorem writePipeline_view {p : Params} (hp : Params.wf p = true) {r : Reg} {k : View}
    (hv : k = .assign ∨ (p.regMap r).aliased = true) (d : Word) (s : State) :
    writePipeline p ((p.regMap r).base + viewOffset k) d s =
      .next (writeDecoded p ((p.regMap r).base + viewOffset k) r k d s) := by
  rw [writePipeline, (decodeAddr_eq_some hp).mpr ⟨rfl, hv⟩]

/-! ### Reads (rules R103, R124) -/

theorem readHook_of_no_hook {p : Params} {r : Reg} (h : (p.regMap r).rhook = .none) (s : State) :
    readHook p r s = (s.rf.get r, s) := by
  rw [readHook, h]
  rfl

theorem exec_read_of_no_hook {s : State} {r : Reg} {k : View} (hs : Running s) (hv : HasView r k)
    (h : (params.regMap r).rhook = .none) :
    exec (.read32 (viewAddr r k)) s = .next { s with response := okResponse (s.rf.get r) r k } := by
  rw [exec_read_view hv hs, readHook_of_no_hook h]
  rfl

/-- A poll yields the answered byte, zero-extended, or what UxRXREG held. -/
theorem uartRxHook_value (u : Fin 6) (s : State) :
    (uartRxHook u s).1 = ((rxAnswer s).map receivedWord).getD (s.rf.get (.urxreg u)) := by
  unfold uartRxHook
  cases rxAnswer s <;> simp [readReg]

/-! ### Writes (rules R101, R104, R105) -/

/-- A WRITE32 to a read-only register is its report. -/
theorem exec_write_of_readOnly {s : State} {r : Reg} (hs : Running s) (h : (params.regMap r).ro = true) (k : View)
    (d : Word) :
    exec (writeInstr k (viewAddr r k) d) s =
      .next (reportReadOnly (viewAddr r k) (symbolicName params r k) s) := by
  rw [exec_write_view (hasView_of_readOnly h k) hs, writeDecoded_readOnly h]

theorem storeWrite_of_stored {p : Params} {r : Reg} (h : (p.regMap r).stored = true) (k : View) (d : Word)
    (s : State) :
    storeWrite p r k d s = writeReg r (mergeWrite (p.regMap r).roMask k (s.rf.get r) d) s :=
  if_pos h

theorem storeWrite_get_self {p : Params} {r : Reg} (h : (p.regMap r).stored = true) (k : View) (d : Word)
    (s : State) :
    (storeWrite p r k d s).rf.get r = mergeWrite (p.regMap r).roMask k (s.rf.get r) d := by
  rw [storeWrite_of_stored h, writeReg_rf, RegFile.get_set_self]

theorem writeHook_of_no_hook {p : Params} {r : Reg} (h : (p.regMap r).whook = .none) (d : Word) (s : State) :
    writeHook p r d s = s := by
  rw [writeHook, h]

/-- A WRITE32 to a stored, writable register without a write hook is the masked write and nothing else. -/
theorem exec_write_of_no_hook {s : State} {r : Reg} (hs : Running s) (hro : (params.regMap r).ro = false)
    (hst : (params.regMap r).stored = true) (hhook : (params.regMap r).whook = .none) (k : View) (d : Word) :
    exec (writeInstr k (viewAddr r k) d) s = .next
      { s with
        rf := s.rf.set r (mergeWrite (params.regMap r).roMask k (s.rf.get r) d)
        response := okResponse 0#32 r k } := by
  rw [exec_write_view (hasView_of_stored hst k) hs, writeDecoded_permitted hro, writeHook_of_no_hook hhook,
    storeWrite_of_stored hst]
  rfl

/-- A write hook of REF leaves its own register as stored, but for the soft reset: the recompute writes INTSTAT only,
and INTSTAT has no write hook. -/
theorem writeHook_get_self {r : Reg} (h : r ≠ .rswrst) (d : Word) (s : State) :
    (writeHook params r d s).rf.get r = s.rf.get r := by
  rcases writeHook_ref r d s with ⟨-, hrf, -⟩ | ⟨hr, he⟩ | ⟨rfl, -⟩
  · rw [hrf]
  · have hne : r ≠ .intstat := by
      rintro rfl
      exact hr
    rw [he, recomputeStatus_get, if_neg hne]
  · exact absurd rfl h

/-- What a permitted write leaves in its own register when the hook leaves that alone (rule R101). -/
theorem writeDecoded_get_self {p : Params} {r : Reg} {k : View} {d : Word} {s : State}
    (hro : (p.regMap r).ro = false) (hst : (p.regMap r).stored = true)
    (hhook : (writeHook p r d (storeWrite p r k d s)).rf.get r = (storeWrite p r k d s).rf.get r) (a : Word) :
    (writeDecoded p a r k d s).rf.get r = mergeWrite (p.regMap r).roMask k (s.rf.get r) d := by
  rw [writeDecoded_permitted hro, respond_rf, hhook, storeWrite_get_self hst]

end Sys2Proof.Machine

/-! PROOFS. The statements on the bus accesses READ32 and WRITE32 (40_bus_access.md). -/

namespace Sys2Proof.Machine

/-! ### Reads (rules R103, R110) -/

/-- Settles O12: without a read hook the value read is the stored one. -/
theorem readPlainRegister : Obligations.ReadPlainRegister := fun _ _ _ => exec_read_of_no_hook

/-- Settles O16: a read is its hook, which stores into UxRXREG or UxSTA at most and notifies no one. -/
theorem readsNeverTouchInterrupts : Obligations.ReadsNeverTouchInterrupts := by
  intro s t a h
  obtain ⟨r, k, -, rfl⟩ := readPipeline_eq_next (serve_eq_next h).2
  obtain ⟨hquiet, hget⟩ := readHook_unnotified r s
  exact ⟨hget .intstat (.inr rfl), fun q hq => hget q (.inl hq), hquiet⟩

/-! ### Writes to stored registers (rules R100, R101, R111 to R114) -/

/-- Settles O17: the masked write through assign, whose alias function is `d`. -/
theorem writeAssignStoresData : Obligations.WriteAssignStoresData := fun _ _ d hs hro hst hhook =>
  exec_write_of_no_hook hs hro hst hhook .assign d

/-- Settles O18: the masked write through clear, whose alias function is `v & ~d`. -/
theorem writeClrClearsBits : Obligations.WriteClrClearsBits := fun _ _ d hs hro hst hhook =>
  exec_write_of_no_hook hs hro hst hhook .clear d

/-- Settles O19: the masked write through set, whose alias function is `v | d`. -/
theorem writeSetSetsBits : Obligations.WriteSetSetsBits := fun _ _ d hs hro hst hhook =>
  exec_write_of_no_hook hs hro hst hhook .set d

/-- Settles O20: the masked write through invert, whose alias function is `v ^ d`. -/
theorem writeInvInvertsBits : Obligations.WriteInvInvertsBits := fun _ _ d hs hro hst hhook =>
  exec_write_of_no_hook hs hro hst hhook .invert d

/-- Settles O31: the storage update merges under the mask, and every hook but the soft reset leaves its result. -/
theorem maskedWriteMerges : Obligations.MaskedWriteMerges := by
  intro s r k d hs hv hro hst hne
  have hget : (writeDecoded params (viewAddr r k) r k d s).rf.get r =
      mergeWrite (params.regMap r).roMask k (s.rf.get r) d :=
    writeDecoded_get_self hro hst (writeHook_get_self hne d _) _
  refine ⟨_, exec_write_view hv hs d, hget, fun j hj => ?_, fun hmask => ?_⟩
  · rw [hget, mergeWrite_masked hj]
  · rw [hget, hmask, mergeWrite_zero]

/-- Settles O32: both addresses decode to the register, and the read yields what the unmasked write stored. -/
theorem aliasLaw : Obligations.AliasLaw := by
  refine ⟨fun p s r k d hp hro hst hmask hread hv hhook => ?_, fun s r d hne => writeHook_get_self hne d s⟩
  refine ⟨_, _, writePipeline_view hp hv d s, readPipeline_base hp r _, ?_⟩
  rw [respond_response, readHook_of_no_hook hread, writeDecoded_get_self hro hst hhook, hmask, mergeWrite_zero]

/-! ### Writes to read-only registers (rules R105, R116) -/

/-- Settles O30: such a write is the report, which touches the trace and the response only. -/
theorem writeReadOnlyIsReported : Obligations.WriteReadOnlyIsReported := fun _ _ k d hs hro =>
  ⟨_, exec_write_of_readOnly hs hro k d, hs, rfl⟩

/-- Settles O33: the report leaves the register file and the backends' answers, so a later read finds both. -/
theorem readOnlyLaw : Obligations.ReadOnlyLaw := by
  intro s r k l d hs hro
  have ht : Running (reportReadOnly (viewAddr r k) (symbolicName params r k) s) := hs
  have hv : HasView r l := hasView_of_readOnly hro l
  refine ⟨_, exec_write_of_readOnly hs hro k d, rfl, rfl, rfl, fun hread => ?_, ?_⟩
  · exact ⟨_, exec_read_of_no_hook ht hv hread, rfl⟩
  · rintro u rfl
    refine ⟨rfl, _, exec_read_view hv ht, ?_⟩
    have hvalue := uartRxHook_value u (reportReadOnly (viewAddr (.urxreg u) k) (symbolicName params (.urxreg u) k) s)
    exact congrArg (fun v => okResponse v (.urxreg u) l) hvalue

end Sys2Proof.Machine

/-! SUPPORT. What a bus access to a hooked register of REF does: the polls of the UARTs, the writes to stored registers
without a mask and to registers that store nothing, the sequencer's table, the SD-card select line, and a backend's
waiting raise. -/

namespace Sys2Proof.Machine

/-! ### Polls (rules R124, R125) -/

/-- An answered poll stores the byte, zero-extended, and yields it. -/
theorem uartRxHook_of_some {s : State} {b : Byte} (h : rxAnswer s = some b) (u : Fin 6) :
    uartRxHook u s = (receivedWord b, writeReg (.urxreg u) (receivedWord b)
      (dropRxAnswer (callBackend (.uartPollReceive u (some b)) s))) := by
  simp [uartRxHook, h, readReg]

/-- A poll that finds no byte ready yields what UxRXREG held. -/
theorem uartRxHook_of_none {s : State} (h : rxAnswer s = none) (u : Fin 6) :
    uartRxHook u s =
      (s.rf.get (.urxreg u), dropRxAnswer (callBackend (.uartPollReceive u none) s)) := by
  simp [uartRxHook, h, readReg]

/-- An answered status poll replaces UxSTA and yields the word. -/
theorem uartStaHook_of_some {s : State} {w : Word} (h : staAnswer s = some w) (u : Fin 6) :
    uartStaHook u s =
      (w, writeReg (.usta u) w (dropStaAnswer (callBackend (.uartPollStatus u (some w)) s))) := by
  simp [uartStaHook, h, readReg]

/-- A status poll without an answer yields what UxSTA held. -/
theorem uartStaHook_of_none {s : State} (h : staAnswer s = none) (u : Fin 6) :
    uartStaHook u s = (s.rf.get (.usta u), dropStaAnswer (callBackend (.uartPollStatus u none) s)) := by
  simp [uartStaHook, h, readReg]

/-! ### Writes (rules R104, R106) -/

/-- A WRITE32 to a stored, writable register without read-only bits stores the view's `aliasWrite` and then runs the
hook on the result. -/
theorem exec_write_of_unmasked {s : State} {r : Reg} (hs : Running s) (hro : (params.regMap r).ro = false)
    (hst : (params.regMap r).stored = true) (hmask : (params.regMap r).roMask = 0#32) (k : View) (d : Word) :
    exec (writeInstr k (viewAddr r k) d) s = .next (respond .ok (some 0#32) (symbolicName params r k)
      (writeHook params r d (writeReg r (aliasWrite k (s.rf.get r) d) s))) := by
  rw [exec_write_view (hasView_of_stored hst k) hs, writeDecoded_permitted hro, storeWrite_of_stored hst, hmask,
    mergeWrite_zero]

theorem storeWrite_of_unstored {p : Params} {r : Reg} (h : (p.regMap r).stored = false) (k : View) (d : Word)
    (s : State) : storeWrite p r k d s = s := by
  simp [storeWrite, h]

/-- A WRITE32 to a writable register that stores nothing is its hook. -/
theorem exec_write_of_unstored {s : State} {r : Reg} (hs : Running s) (hro : (params.regMap r).ro = false)
    (hst : (params.regMap r).stored = false) (d : Word) :
    exec (.writeAssign (viewAddr r .assign) d) s =
      .next (respond .ok (some 0#32) (symbolicName params r .assign) (writeHook params r d s)) := by
  have hwrite := exec_write_view (r := r) (k := .assign) (.inl rfl) hs d
  rw [writeDecoded_permitted hro, storeWrite_of_unstored hst] at hwrite
  exact hwrite

/-- The latch's write hook announces the value just stored (rule R120). -/
theorem writeHook_lat (b : Fin 7) (d n : Word) (s : State) :
    writeHook params (.lat b) d (writeReg (.lat b) n s) =
      callBackend (.gpioLatchChanged b n) (writeReg (.lat b) n s) := by
  show callBackend (.gpioLatchChanged b ((s.rf.set (.lat b) n).get (.lat b))) _ = _
  rw [RegFile.get_set_self]

/-- The soft reset request's write hook looks at the value just stored (rule R133). -/
theorem writeHook_rswrst (d n : Word) (s : State) :
    writeHook params .rswrst d (writeReg .rswrst n s) =
      if s.seq = .unlocked ∧ n.getLsbD 0 = true then resetBody params (writeReg .rswrst n s)
      else writeReg .rswrst n s := by
  show (if s.seq = .unlocked ∧ ((s.rf.set .rswrst n).get .rswrst).getLsbD 0 = true then _ else _) = _
  rw [RegFile.get_set_self]
  rfl

/-- The sequencer's table as two steps forward and a way back (rule R130). -/
theorem nextSeq_eq_ite (q : Sequencer) (d : Word) :
    nextSeq q d =
      if q = .locked ∧ d = firstKey then .stage1 else if q = .stage1 ∧ d = secondKey then .unlocked else .locked := by
  cases q <;> simp [nextSeq]

/-! ### The SD-card select line (rule R121) -/

/-- The select line after one more event. -/
theorem sdSelected_append (es : List Event) (e : Event) :
    sdSelected (es ++ [e]) = sdSelectAfter (sdSelected es) e := by
  simp [sdSelected]

/-! ### A backend's waiting request (rule R139) -/

/-- A flag request leaves both queues of requests alone. -/
theorem FlagRequest.keeps_queues {i : Nat} {s t : State} (h : FlagRequest i s t) :
    t.irqPending = s.irqPending ∧ t.inbox = s.inbox := by
  rcases h with rfl | ⟨w, rfl⟩ <;> exact ⟨rfl, rfl⟩

/-- A step that finds a backend's raise waiting is its IRQ_RAISE, whatever the inbox holds. -/
theorem step_of_pending_raise {s : State} {x : Word} {qs : List BackendIrq} (hs : Running s)
    (h : s.irqPending = .raise x :: qs) (hx : x.toNat < params.nSrc) :
    step s = .next (respondDone (raiseFlag params x.toNat { s with irqPending := qs })) := by
  rw [step_of_decode (nextInbound_of_irqPending h) (decode_backendRaise x)]
  exact exec_irqRaise_of_lt (s := { s with irqPending := qs }) hs hx

end Sys2Proof.Machine

/-! PROOFS. The statements on the dispatcher's hooks and the backends (41_dispatch.md). -/

namespace Sys2Proof.Machine

/-! ### Reads that ask a backend (rules R124, R125, R127) -/

/-- Settles O13: the poll is answered or not. -/
theorem readUartReceive : Obligations.ReadUartReceive := by
  intro s u k hs
  refine ⟨_, exec_read_view (r := .urxreg u) (.inr rfl) hs, ?_⟩
  have hhook : readHook params (.urxreg u) s = uartRxHook u s := rfl
  obtain ⟨hinit, hhalt⟩ := hs
  cases h : rxAnswer s with
  | none => simp [hhook, uartRxHook_of_none h, okResponse, hinit, hhalt]
  | some b => simp [hhook, uartRxHook_of_some h, receivedWord, okResponse, hinit, hhalt]

/-- Settles O14: the status poll is answered or not. -/
theorem readUartStatus : Obligations.ReadUartStatus := by
  intro s u k hs
  refine ⟨_, exec_read_view (r := .usta u) (.inr rfl) hs, ?_⟩
  have hhook : readHook params (.usta u) s = uartStaHook u s := rfl
  obtain ⟨hinit, hhalt⟩ := hs
  cases h : staAnswer s with
  | none => simp [hhook, uartStaHook_of_none h, okResponse, hinit, hhalt]
  | some w => simp [hhook, uartStaHook_of_some h, okResponse, hinit, hhalt]

/-- Settles O15: SPIxBUF stores nothing, so a read and a write are their backend call. -/
theorem spiBufferForwards : Obligations.SpiBufferForwards := by
  intro s c hs
  refine ⟨⟨_, exec_read_view (r := .spibuf c) (.inl rfl) hs, ?_⟩, fun d => ?_⟩
  · have hhook : readHook params (.spibuf c) s =
        (spiAnswer s, dropSpiAnswer (callBackend (.spiReadBuffer c (spiAnswer s)) s)) := rfl
    obtain ⟨hinit, hhalt⟩ := hs
    simp [hhook, okResponse, hinit, hhalt]
  · exact exec_write_of_unstored (r := .spibuf c) hs rfl rfl d

/-! ### Writes that store (rules R120, R122, R126, R135) -/

/-- Settles O21: TRISx has no mask and no hook. -/
theorem trisIsPlainStorage : Obligations.TrisIsPlainStorage := fun _ b k d hs =>
  exec_write_of_unmasked (r := .tris b) hs rfl rfl rfl k d

/-- Settles O22: the hook reads the latch back after the storage update. -/
theorem writeLatchNotifiesGpio : Obligations.WriteLatchNotifiesGpio := by
  intro s b k d hs
  rw [exec_write_of_unmasked (r := .lat b) hs rfl rfl rfl, writeHook_lat]
  rfl

/-- Settles O23: UxMODE has no mask, and its hook is the call. -/
theorem writeUartModeAppliesMode : Obligations.WriteUartModeAppliesMode := fun _ u k d hs =>
  exec_write_of_unmasked (r := .umode u) hs rfl rfl rfl k d

/-- Settles O24: SPIxCON has no mask, and its hook is the call. -/
theorem writeSpiControlConfigures : Obligations.WriteSpiControlConfigures := fun _ c k d hs =>
  exec_write_of_unmasked (r := .spicon c) hs rfl rfl rfl k d

/-! ### Writes that only forward (rules R123, R130) -/

/-- Settles O25: UxTXREG stores nothing, and its hook is the call with the low byte. -/
theorem writeUartTransmitForwardsByte : Obligations.WriteUartTransmitForwardsByte := fun _ u d hs =>
  exec_write_of_unstored (r := .utxreg u) hs rfl rfl d

/-- Settles O26: SYSKEY stores nothing, and its hook is one turn of the sequencer. -/
theorem writeSyskeyStepsSequencer : Obligations.WriteSyskeyStepsSequencer := by
  intro s d hs
  have hhook : writeHook params .syskey d s = { s with seq := nextSeq s.seq d } := rfl
  rw [exec_write_of_unstored hs rfl rfl, hhook, nextSeq_eq_ite]
  rfl

/-! ### The soft reset (rules R133, R134, R172) -/

/-- Settles O27: the hook fires on the value just stored, and the reset body overwrites it. -/
theorem writeRswrstFiresOnlyUnlocked : Obligations.WriteRswrstFiresOnlyUnlocked := by
  intro s k d hs
  rw [exec_write_of_unmasked hs rfl rfl rfl, writeHook_rswrst]
  split
  · rw [resetBody_ref]
    rfl
  · rfl

/-! ### What follows a latch write (rules R121, R139) -/

/-- Settles O59: the latch write's one call is the last event of the trace, and the line follows it or keeps. -/
theorem sdSelectFollowsLatch : Obligations.SdSelectFollowsLatch := by
  intro s b k d hs
  refine ⟨_, _, writeLatchNotifiesGpio s b k d hs, ?_, rfl, fun hb => ?_, fun hb => ?_⟩
  · simp only [RegFile.get_set_self]
  · rw [sdSelected_append, sdSelectAfter, if_pos hb]
  · rw [sdSelected_append, sdSelectAfter, if_neg hb]

/-- Settles O60: the latch write queues the raise, and the next step takes it from there. -/
theorem backendInterruptsWaitTheirTurn : Obligations.BackendInterruptsWaitTheirTurn := by
  intro s b k d x rest hs hpending hscript hx
  have hwrite := writeLatchNotifiesGpio s b k d hs
  rw [hpending, hscript] at hwrite
  refine ⟨_, _, hwrite, ?_, rfl, step_of_pending_raise (qs := []) hs rfl hx, ?_, ?_⟩
  · simp [RegFile.get_set]
  · simp [flagSet_raiseFlag hx hx]
  · exact (raiseFlag_flagRequest x.toNat _).keeps_queues

end Sys2Proof.Machine

/-! SUPPORT. What the arbitration and the two flag requests do, said once: the arbiter's two outcomes, the winner it
picks, what it does not read, and each request on a set and on a clear flag. -/

namespace Sys2Proof.Machine

/-! ### The arbiter (rules R152, R154, R155, R157, R158) -/

/-- The two outcomes of the arbitration: no source is asserted, or one wins that no pending, enabled source exceeds
and none of lower index equals. -/
theorem arbitrate_cases (p : Params) (rf : RegFile) :
    ((∀ i < p.nSrc, ¬Asserted rf i) ∧ arbitrate p rf = { level := 0#3, vector := 0#8 }) ∨
      ∃ i < p.nSrc, Asserted rf i ∧ arbitrate p rf = { level := prio rf i, vector := p.vec i } ∧
        (∀ j < p.nSrc, flagSet rf j = true → enableSet rf j = true → prio rf j ≤ prio rf i) ∧
        (∀ j < i, flagSet rf j = true → enableSet rf j = true → prio rf j < prio rf i) := by
  unfold arbitrate
  obtain ⟨hmax, h0 | ⟨i, hi, hf, he, hne, hres, hlow⟩⟩ := scanBelow_spec p rf p.nSrc
  · rw [h0] at hmax
    exact .inl ⟨fun i hi ⟨hf, he, hne⟩ => hne (BitVec.le_zero_iff.mp (hmax i hi hf he)), h0⟩
  · rw [hres] at hmax
    exact .inr ⟨i, hi, ⟨hf, he, hne⟩, hres, hmax, hlow⟩

/-- An asserted source that no pending, enabled source exceeds and none of lower index equals is the winner: the one
the arbitration picks has its priority, and neither of the two precedes the other. -/
theorem arbitrate_of_winner {p : Params} {rf : RegFile} {i : Nat} (hi : i < p.nSrc) (ha : Asserted rf i)
    (hmax : ∀ j < p.nSrc, flagSet rf j = true → enableSet rf j = true → prio rf j ≤ prio rf i)
    (hlow : ∀ j < i, flagSet rf j = true → enableSet rf j = true → prio rf j ≠ prio rf i) :
    arbitrate p rf = { level := prio rf i, vector := p.vec i } := by
  rcases arbitrate_cases p rf with ⟨hquiet, -⟩ | ⟨w, hw, hwa, hres, hwmax, hwlow⟩
  · exact absurd ha (hquiet i hi)
  obtain ⟨hf, he, -⟩ := ha
  obtain ⟨hwf, hwe, -⟩ := hwa
  have heq : prio rf w = prio rf i := BitVec.le_antisymm (hmax w hw hwf hwe) (hwmax i hi hf he)
  rcases Nat.lt_trichotomy w i with hlt | rfl | hlt
  · exact absurd heq (hlow w hlt hwf hwe)
  · exact hres
  · exact absurd (heq ▸ hwlow i hlt hf he) (BitVec.lt_irrefl _)

/-- A source that alone is pending and enabled wins. -/
theorem arbitrate_of_sole {p : Params} {rf : RegFile} {i : Nat} (hi : i < p.nSrc) (ha : Asserted rf i)
    (hsole : ∀ j < p.nSrc, flagSet rf j = true → enableSet rf j = true → j = i) :
    arbitrate p rf = { level := prio rf i, vector := p.vec i } :=
  arbitrate_of_winner hi ha
    (fun j hj hf he => by rw [hsole j hj hf he]; exact BitVec.le_refl _)
    (fun j hj hf he => absurd (hsole j (Nat.lt_trans hj hi) hf he) (Nat.ne_of_lt hj))

theorem arbitrate_of_none_asserted {p : Params} {rf : RegFile} (h : ∀ i < p.nSrc, ¬Asserted rf i) :
    arbitrate p rf = { level := 0#3, vector := 0#8 } :=
  arbitrate_quiet fun i hi hf he => by_contra fun hne => h i hi ⟨hf, he, hne⟩

/-- A turn of the scan reads whether the source is both pending and enabled, and its priority only if it is. -/
theorem scanTurn_congr {p : Params} {rf rf' : RegFile} {i : Nat}
    (hpend : (flagSet rf i && enableSet rf i) = (flagSet rf' i && enableSet rf' i))
    (hprio : flagSet rf i = true → enableSet rf i = true → prio rf i = prio rf' i) (a : Arb) :
    scanTurn p rf a i = scanTurn p rf' a i := by
  unfold scanTurn
  rw [← hpend]
  by_cases h : flagSet rf i = true ∧ enableSet rf i = true
  · rw [hprio h.1 h.2]
  · rw [← Bool.and_eq_true, Bool.not_eq_true] at h
    simp [h]

/-- A consistent INTSTAT is 0 when no source is asserted. -/
theorem StatusConsistent.intstat_quiet {p : Params} {s : State} (h : StatusConsistent p s)
    (hquiet : ∀ i < p.nSrc, ¬Asserted s.rf i) : s.rf.get .intstat = 0#32 := by
  rw [h, arbitrate_of_none_asserted hquiet]
  rfl

/-! ### The two flag requests (rules R150, R151) -/

theorem raiseFlag_of_set {p : Params} {i : Nat} {s : State} (h : flagSet s.rf i = true) : raiseFlag p i s = s :=
  if_pos h

theorem raiseFlag_of_clear {p : Params} {i : Nat} {s : State} (h : ¬flagSet s.rf i = true) :
    raiseFlag p i s = recomputeStatus p (writeReg (.ifs (flagReg i)) (raisedWord s.rf i) s) :=
  if_neg h

theorem clearFlag_of_set {p : Params} {i : Nat} {s : State} (h : flagSet s.rf i = true) :
    clearFlag p i s = recomputeStatus p (writeReg (.ifs (flagReg i)) (clearedWord s.rf i) s) :=
  if_pos h

theorem clearFlag_of_clear {p : Params} {i : Nat} {s : State} (h : ¬flagSet s.rf i = true) : clearFlag p i s = s :=
  if_neg h

theorem exec_irqRaise_of_ge {s : State} {x : Word} (hs : Running s) (hx : params.nSrc ≤ x.toNat) :
    exec (.irqRaise x) s = .refused (.sourceOutOfRange x) := by
  show serve s (irqRaise params x) = _
  rw [serve_of_running hs, irqRaise, if_pos hx]
  rfl

theorem exec_irqClear_of_ge {s : State} {x : Word} (hs : Running s) (hx : params.nSrc ≤ x.toNat) :
    exec (.irqClear x) s = .refused (.sourceOutOfRange x) := by
  show serve s (irqClear params x) = _
  rw [serve_of_running hs, irqClear, if_pos hx]
  rfl

/-- The requests' response is nothing the next request reads. -/
theorem clearFlag_respondDone (p : Params) (i : Nat) (s : State) :
    clearFlag p i (respondDone s) = respondDone (clearFlag p i s) := by
  by_cases h : flagSet s.rf i = true
  · rw [clearFlag_of_set h, clearFlag_of_set (s := respondDone s) h]
    rfl
  · rw [clearFlag_of_clear h, clearFlag_of_clear (s := respondDone s) h]

/-- What a flag request that writes its flag register shows: the word, INTSTAT and the notification of the arbitration
result over the new flags. -/
theorem recompute_after_flag_write {p : Params} {s : State} {n : Fin 6} {w : Word} {a : Arb}
    (h : arbitrate p (s.rf.set (.ifs n) w) = a) :
    (respondDone (recomputeStatus p (writeReg (.ifs n) w s))).rf.get (.ifs n) = w ∧
      (respondDone (recomputeStatus p (writeReg (.ifs n) w s))).rf.get .intstat = packStatus a ∧
      (respondDone (recomputeStatus p (writeReg (.ifs n) w s))).trace =
        s.trace ++ [.notifyInterrupt a.level a.vector] := by
  rw [respondDone_rf, recomputeStatus_get, recomputeStatus_get, respondDone_trace, recomputeStatus_trace, writeReg_rf,
    writeReg_trace, h, RegFile.get_set_self]
  exact ⟨if_neg (by simp), rfl, rfl⟩

theorem flagSet_of_zero {rf : RegFile} (h : ∀ n, rf.get (.ifs n) = 0#32) (i : Nat) : flagSet rf i = false := by
  simp [flagSet, h]

/-- Raising a source over a file without flags makes it the only pending one, so it wins if it is enabled at a
non-zero priority. -/
theorem arbitrate_raised_of_no_flags {rf : RegFile} (h : ∀ n, rf.get (.ifs n) = 0#32) {i : Nat} (hi : i < 192)
    (he : enableSet rf i = true) (hne : prio rf i ≠ 0#3) :
    arbitrate params (rf.set (.ifs (flagReg i)) (raisedWord rf i)) =
      { level := prio rf i, vector := params.vec i } := by
  have hflag : ∀ j < 192, flagSet (rf.set (.ifs (flagReg i)) (raisedWord rf i)) j = decide (j = i) := fun j hj => by
    rw [flagSet_raised hi hj, flagSet_of_zero h, Bool.or_false]
  have ha : Asserted (rf.set (.ifs (flagReg i)) (raisedWord rf i)) i :=
    ⟨by simp [hflag i hi], by simpa using he, by simpa using hne⟩
  rw [arbitrate_of_sole hi ha fun j hj hf _ => by simpa [hflag j hj] using hf, prio_set_ifs]

/-- Of the sources asserted after a raise and a clear of source `i`, each was asserted before and is another. -/
theorem Asserted.of_clear_raise {s : State} {i j : Nat} (hi : i < 192) (hj : j < 192)
    (h : Asserted (clearFlag params i (raiseFlag params i s)).rf j) : j ≠ i ∧ Asserted s.rf j := by
  obtain ⟨hf, he, hp⟩ := h
  obtain ⟨hce, hcp⟩ := (clearFlag_flagRequest i (raiseFlag params i s)).enable_prio j
  obtain ⟨hre, hrp⟩ := (raiseFlag_flagRequest i s).enable_prio j
  rw [hce, hre] at he
  rw [hcp, hrp] at hp
  rw [flagSet_clearFlag hi hj, flagSet_raiseFlag hi hj] at hf
  by_cases hij : j = i
  · simp [hij] at hf
  · exact ⟨hij, by simpa [hij] using hf, he, hp⟩

/-! ### The rows of the interrupt registers (rule R33) -/

/-- The registers the arbiter reads are stored without read-only bits. -/
theorem ReadByArbiter.unmasked {r : Reg} (h : ReadByArbiter r) :
    (params.regMap r).stored = true ∧ (params.regMap r).roMask = 0#32 := by
  cases r with
  | ifs | iec | ipc => exact ⟨rfl, rfl⟩
  | _ => exact h.elim

/-- The write hook of a register the arbiter reads is the recompute (rule R153). -/
theorem ReadByArbiter.writeHook_eq {r : Reg} (h : ReadByArbiter r) (d : Word) (s : State) :
    writeHook params r d s = recomputeStatus params s := by
  cases r with
  | ifs | iec | ipc => rfl
  | _ => exact h.elim

end Sys2Proof.Machine

/-! PROOFS. The statements on the interrupt registers, the two flag requests and the arbitration
(42_interrupts.md). -/

namespace Sys2Proof.Machine

/-! ### The arbitration (rules R154, R155, R157, R158, R162) -/

/-- Settles O43: the arbitration has no other outcomes than quiet and a winner, and winners are unique. -/
theorem arbiterPicksHighestThenLowest : Obligations.ArbiterPicksHighestThenLowest := by
  intro p rf
  refine ⟨fun i => arbitrate_of_winner, fun hne => ?_⟩
  rcases arbitrate_cases p rf with ⟨-, h0⟩ | hwin
  · rw [h0] at hne
    exact absurd rfl hne
  · exact hwin

/-- Settles O44: level 0 is the quiet outcome, since a winner's priority is not 0. -/
theorem levelZeroNeverDelivered : Obligations.LevelZeroNeverDelivered := by
  intro p s
  refine ⟨⟨fun h0 => ?_, fun hquiet => ?_⟩, fun hquiet => ⟨?_, ?_⟩, fun hne => ?_⟩
  · rcases arbitrate_cases p s.rf with ⟨hquiet, -⟩ | ⟨i, -, ⟨-, -, hprio⟩, hres, -⟩
    · exact hquiet
    · rw [hres] at h0
      exact absurd h0 hprio
  · rw [arbitrate_of_none_asserted hquiet]
  · rw [arbitrate_of_none_asserted hquiet]
  · rw [recomputeStatus_trace, arbitrate_of_none_asserted hquiet]
  · obtain ⟨i, hi, ha, hres, -⟩ := (arbiterPicksHighestThenLowest p s.rf).2 hne
    exact ⟨i, hi, ha, hres⟩

/-- Settles O45: turn by turn, the two scans find the same. -/
theorem ignoredBitsNeverAffectArbitration : Obligations.IgnoredBitsNeverAffectArbitration := by
  intro p rf rf'
  unfold arbitrate
  induction p.nSrc with
  | zero => exact fun _ _ => rfl
  | succ n ih =>
    intro hpend hprio
    have hbelow : scanBelow p rf n = scanBelow p rf' n :=
      ih (fun i hi => hpend i (Nat.lt_succ_of_lt hi)) fun i hi => hprio i (Nat.lt_succ_of_lt hi)
    rw [scanBelow, scanBelow, hbelow]
    exact scanTurn_congr (hpend n (Nat.lt_succ_self n)) (hprio n (Nat.lt_succ_self n)) _

/-- Settles O46: of the four pending sources, 4 has the highest priority and only 2 has a lower index. -/
theorem arbitrationExample : Obligations.ArbitrationExample := by
  intro rf hflag henable h2 h7 h4 h9
  have ha : Asserted rf 4 := ⟨(hflag 4 (by decide)).mpr (by decide), henable 4 (by decide), by rw [h4]; decide⟩
  have hres : arbitrate params rf = { level := prio rf 4, vector := params.vec 4 } := by
    refine arbitrate_of_winner (by decide) ha (fun j hj hf _ => ?_) fun j hj hf _ => ?_
    · rcases (hflag j hj).mp hf with rfl | rfl | rfl | rfl
      · rw [h2, h4]; decide
      · rw [h4]; decide
      · rw [h7, h4]; decide
      · rw [h9, h4]; decide
    · have hj2 : j = 2 := by
        have := (hflag j (by omega)).mp hf
        omega
      rw [hj2, h2, h4]
      decide
  rw [hres, h4]
  exact ⟨rfl, rfl⟩

/-! ### Writes to the interrupt registers (rules R152, R153, R156) -/

/-- Settles O29: these registers have no mask, and their hook is the recompute. -/
theorem writeInterruptRegisterRecomputes : Obligations.WriteInterruptRegisterRecomputes := by
  intro s r k d hs hr
  obtain ⟨hst, hmask⟩ := hr.unmasked
  rw [exec_write_of_unmasked hs hr.writable hst hmask, hr.writeHook_eq]
  rfl

/-! ### IRQ_RAISE and IRQ_CLEAR (rules R150, R151, R161) -/

/-- Settles O39: the flag is set or clear; in the example the raised source is the only pending one. -/
theorem raiseSetsFlagAndRecomputes : Obligations.RaiseSetsFlagAndRecomputes := by
  refine ⟨decode_irqRaise, fun s x hs hx => ?_, fun s x => exec_irqRaise_of_ge, fun s hs hifs hiec _ hprio => ?_⟩
  · rw [exec_irqRaise_of_lt hs hx]
    split
    · next h => rw [raiseFlag_of_set h]; rfl
    · next h => rw [raiseFlag_of_clear h]; rfl
  · have hclear : ¬flagSet s.rf 2 = true := by simp [flagSet_of_zero hifs]
    have henable : enableSet s.rf 2 = true := by
      show (s.rf.get (.iec 0)).getLsbD 2 = true
      rw [hiec]
      rfl
    have hlevel : prio s.rf 2 = 3#3 := hprio
    have hword : raisedWord s.rf 2 = 4#32 := by
      rw [raisedWord, hifs]
      rfl
    have hres := arbitrate_raised_of_no_flags hifs (i := 2) (by decide) henable (by rw [hlevel]; decide)
    rw [hlevel, hword] at hres
    refine ⟨respondDone (raiseFlag params 2 s), exec_irqRaise_of_lt (x := 2#32) hs (by decide), ?_⟩
    rw [raiseFlag_of_clear hclear, hword]
    exact recompute_after_flag_write hres

/-- Settles O40: the flag is set or clear; in the example no other source is pending. -/
theorem clearClearsFlagAndRecomputes : Obligations.ClearClearsFlagAndRecomputes := by
  refine ⟨decode_irqClear, fun s x hs hx => ?_, fun s x => exec_irqClear_of_ge, fun s hs h0 hifs => ?_⟩
  · rw [exec_irqClear_of_lt hs hx]
    split
    · next h => rw [clearFlag_of_set h]; rfl
    · next h => rw [clearFlag_of_clear h]; rfl
  · have hset : flagSet s.rf 2 = true := by
      show (s.rf.get (.ifs 0)).getLsbD 2 = true
      rw [h0]
      rfl
    have hword : clearedWord s.rf 2 = 0#32 := by
      show s.rf.get (.ifs 0) &&& _ = _
      rw [h0]
      rfl
    have hres : arbitrate params (s.rf.set (.ifs (flagReg 2)) 0#32) = { level := 0#3, vector := 0#8 } :=
      arbitrate_of_no_flags fun n => by
        rw [RegFile.get_set]
        split
        · rfl
        · next hne => exact hifs n fun h => hne (congrArg Reg.ifs h)
    refine ⟨respondDone (clearFlag params 2 s), exec_irqClear_of_lt (x := 2#32) hs (by decide), ?_⟩
    rw [clearFlag_of_set hset, hword]
    exact recompute_after_flag_write hres

/-- Settles O47: after the two requests no source is asserted, and the clear, which finds the flag set, recomputes. -/
theorem raiseThenClearReturnsToQuiet : Obligations.RaiseThenClearReturnsToQuiet := by
  intro s x hs hx hquiet
  have hset : flagSet (raiseFlag params x.toNat s).rf x.toNat = true := by simp [flagSet_raiseFlag hx hx]
  have hstatus : StatusConsistent params (clearFlag params x.toNat (raiseFlag params x.toNat s)) := by
    rw [clearFlag_of_set hset]
    exact recomputeStatus_consistent _ _
  have hzero : (clearFlag params x.toNat (raiseFlag params x.toNat s)).rf.get .intstat = 0#32 :=
    hstatus.intstat_quiet fun j hj ha => by
      obtain ⟨hne, hbefore⟩ := ha.of_clear_raise hx hj
      exact hquiet j hj hne hbefore
  have hraise := exec_irqRaise_of_lt hs hx
  have hclear := exec_irqClear_of_lt (exec_running hraise) hx
  rw [clearFlag_respondDone] at hclear
  exact ⟨_, _, hraise, hclear, hzero, congrArg (BitVec.extractLsb' 8 3) hzero,
    congrArg (BitVec.extractLsb' 0 8) hzero⟩

end Sys2Proof.Machine

/-! PROOFS. The statements on RESET, INIT and the soft reset (43_lifecycle.md). -/

namespace Sys2Proof.Machine

/-! ### RESET and INIT (rules R170, R171, R173) -/

/-- Settles O48: the lifecycle's operation is the reset body on a block made ready for requests. -/
theorem resetCompletes : Obligations.ResetCompletes := by
  intro s hs
  rw [exec_lifecycle (.inl rfl), serveLifecycle_of_ready hs, lifecycleResult, lifecycleReset_ref]

/-- INIT is served as RESET is, whatever the handle (rule R171). -/
theorem exec_init_eq_exec_reset (handle : Word) (s : State) : exec (.init handle) s = exec .reset s := by
  rw [exec_lifecycle (.inr ⟨handle, rfl⟩), exec_lifecycle (.inl rfl)]

/-- Settles O49: INIT is served as RESET is, whose next state is known. -/
theorem initIsResetWithHandle : Obligations.InitIsResetWithHandle := by
  intro s handle hs
  have hreset := resetCompletes s hs
  exact ⟨_, (exec_init_eq_exec_reset handle s).trans hreset, hreset, rfl, rfl, rfl, rfl, rfl, rfl⟩

/-- Settles O50: the first RESET leaves a block that is not halted, so the second completes, too. -/
theorem resetTwiceIsResetOnce : Obligations.ResetTwiceIsResetOnce := by
  intro s hs
  exact ⟨_, _, resetCompletes s hs, resetCompletes _ (.inr rfl), rfl, rfl, rfl, rfl, rfl⟩

/-! ### The soft reset (rule R174) -/

/-- Settles O28: the stored 1 has bit 0 set, so in Unlocked the reset body follows, and else the store is all. -/
theorem softResetLaw : Obligations.SoftResetLaw := by
  intro s hs
  have hwrite := writeRswrstFiresOnlyUnlocked s .assign 1#32 hs
  have hvalue : aliasWrite .assign (s.rf.get .rswrst) 1#32 = 1#32 := rfl
  rw [hvalue] at hwrite
  refine ⟨fun hunlocked => ?_, fun hkept => ?_⟩
  · rw [if_pos ⟨hunlocked, by decide⟩] at hwrite
    exact ⟨_, hwrite, rfl, resetFile_get⟩
  · have hlocked : s.seq ≠ .unlocked := by
      rcases hkept with h | h <;> rw [h] <;> decide
    rw [if_neg fun h => hlocked h.1] at hwrite
    exact ⟨_, hwrite, rfl, RegFile.get_set_self s.rf .rswrst 1#32, fun r hr => RegFile.get_set_of_ne hr s.rf 1#32⟩

end Sys2Proof.Machine

/-! SUPPORT. What the error conditions do to a request and to the trace: a halted block stops on whatever arrives, an
Unmapped address is fatal, and only a write to a read-only register reports and goes on. -/

namespace Sys2Proof.Machine

/-! ### A halted block (rules R41, R181) -/

section Halted

variable {s : State} {a : Word} {dir : Dir} (hi : s.initialised = true) (hh : s.halted = some { addr := a, dir := dir })
include hi hh

theorem exec_of_halted (i : Instr) : exec i s = .fault (.halted a dir) := by
  cases i with
  | read32 | writeAssign | writeClr | writeSet | writeInv | irqRaise | irqClear => exact serve_of_halted hi hh _
  | reset | init => exact serveLifecycle_of_halted hi hh _

theorem serveReject_of_halted (e : Reject) : serveReject e s = .fault (.halted a dir) := by
  cases e with
  | unaligned | reservedKind => exact serve_of_halted hi hh _

/-- The halt is met before any refusal (log entry 12). -/
theorem serveInbound_of_halted (x : Inbound) : serveInbound x s = .fault (.halted a dir) := by
  cases x with
  | subWordAccess => exact serve_of_halted hi hh _
  | request q =>
    rw [serveInbound, serveRequest]
    cases decode q with
    | ok i => exact exec_of_halted hi hh i
    | error e => exact serveReject_of_halted hi hh e

/-- A halted block does not even idle (log entry 6). -/
theorem idle_of_halted : idle s = .fault (.halted a dir) := by
  simp [idle, haltFault, hi, hh]

/-- Taking a request off its queue does not clear the latch, so what is served meets it. -/
theorem step_of_halted : step s = .fault (.halted a dir) := by
  cases hn : nextInbound s with
  | none => rw [step_of_nothing hn, idle_of_halted hi hh]
  | some y =>
    obtain ⟨x, s'⟩ := y
    obtain ⟨-, -, hhalted, hinit, -⟩ := nextInbound_keeps hn
    rw [step_of_nextInbound hn, serveInbound_of_halted (hinit.trans hi) (hhalted.trans hh)]

end Halted

/-! ### An Unmapped address (rule R181) -/

theorem exec_read_of_unmapped {s : State} {a : Word} (hs : Running s) (hd : decodeAddr params a = none) :
    exec (.read32 a) s = raiseFatal a .read s := by
  rw [exec, execRead32, serve_of_running hs, readPipeline, hd]

theorem exec_write_of_unmapped {s : State} {a : Word} (hs : Running s) (hd : decodeAddr params a = none) (k : View)
    (d : Word) : exec (writeInstr k a d) s = raiseFatal a .write s := by
  rw [exec_writeInstr, serve_of_running hs, writePipeline, hd]

/-! ### Reports (rules R180, R182, R183) -/

/-- From `s` to `t` the trace grew, by events none of which is a diagnostic report. -/
def Unreported (s t : State) : Prop :=
  ∃ es, t.trace = s.trace ++ es ∧ ∀ c a dir n, Event.report c a dir n ∉ es

/-- From `s` to `t` the trace grew by one event, the report of a write to a read-only register. -/
def ReadOnlyReported (s t : State) : Prop :=
  ∃ a n, t.trace = s.trace ++ [.report .readOnlyViolation a .write n]

namespace Unreported

variable {s t u : State}

theorem of_trace_eq (h : t.trace = s.trace) : Unreported s t :=
  ⟨[], by simp [h], by simp⟩

theorem trans (h : Unreported s t) (h' : Unreported t u) : Unreported s u := by
  obtain ⟨es, hes, hn⟩ := h
  obtain ⟨es', hes', hn'⟩ := h'
  exact ⟨es ++ es', by rw [hes', hes, List.append_assoc],
    fun c a dir n hm => (List.mem_append.mp hm).elim (hn c a dir n) (hn' c a dir n)⟩

end Unreported

theorem recomputeStatus_unreported (p : Params) (s : State) : Unreported s (recomputeStatus p s) :=
  ⟨_, recomputeStatus_trace p s, by simp⟩

theorem resetBody_unreported (s : State) : Unreported s (resetBody params s) :=
  ⟨_, resetBody_trace s, by simp⟩

theorem readHook_unreported (p : Params) (r : Reg) (s : State) : Unreported s (readHook p r s).2 := by
  obtain ⟨es, hes, hn⟩ := readHook_events p r s
  exact ⟨es, hes, fun c a dir n hm => (hn _ hm).2 c a dir n rfl⟩

theorem writeHook_unreported (r : Reg) (d : Word) (s : State) : Unreported s (writeHook params r d s) := by
  rcases writeHook_events params r d s with ⟨es, hes, -, hn⟩ | h | h
  · exact ⟨es, hes, fun c a dir n hm => (hn _ hm).2 c a dir n rfl⟩
  · rw [h]; exact recomputeStatus_unreported params s
  · rw [h]; exact resetBody_unreported s

theorem storeWrite_unreported (p : Params) (r : Reg) (k : View) (d : Word) (s : State) :
    Unreported s (storeWrite p r k d s) :=
  .of_trace_eq (by simp [storeWrite_keeps p r k d s])

/-- A write of a read-only register is its report and no other event (rule R105); a permitted one reports nothing. -/
theorem writeDecoded_unreported_or_readOnlyReported (a : Word) (r : Reg) (k : View) (d : Word) (s : State) :
    Unreported s (writeDecoded params a r k d s) ∨ ReadOnlyReported s (writeDecoded params a r k d s) := by
  cases hro : (params.regMap r).ro with
  | true =>
    rw [writeDecoded_readOnly hro]
    exact .inr ⟨_, _, reportReadOnly_trace ..⟩
  | false =>
    rw [writeDecoded_permitted hro]
    exact .inl ((storeWrite_unreported params r k d s).trans (writeHook_unreported r d _))

theorem FlagRequest.unreported {i : Nat} {s t : State} (h : FlagRequest i s t) : Unreported s t := by
  rcases h with rfl | ⟨w, rfl⟩
  · exact .of_trace_eq rfl
  · exact recomputeStatus_unreported params (writeReg (.ifs (flagReg i)) w s)

/-- An instruction that answers reports nothing, or it is a write that reports a read-only register. -/
theorem exec_unreported_or_readOnlyReported {i : Instr} {s t : State} (h : exec i s = .next t) :
    Unreported s t ∨ ReadOnlyReported s t := by
  cases served_of_exec h with
  | read _ r => exact .inl (readHook_unreported params r s)
  | write a d r _ k => exact writeDecoded_unreported_or_readOnlyReported a r k d s
  | raise => exact .inl (raiseFlag_flagRequest _ s).unreported
  | clear => exact .inl (clearFlag_flagRequest _ s).unreported
  | lifecycle => exact .inl (resetBody_unreported { s with halted := none, initialised := true })

theorem step_unreported_or_readOnlyReported {s t : State} (h : step s = .next t) :
    Unreported s t ∨ ReadOnlyReported s t := by
  rcases step_cases h with ⟨-, rfl⟩ | ⟨q, s', i, hn, -, hx⟩
  · exact .inl (.of_trace_eq rfl)
  · obtain ⟨-, -, -, -, -, htrace, -⟩ := nextInbound_keeps hn
    unfold Unreported ReadOnlyReported
    rw [← htrace]
    exact exec_unreported_or_readOnlyReported hx

end Sys2Proof.Machine

/-! PROOFS. The statements on the error conditions (60_exceptions.md). -/

namespace Sys2Proof.Machine

/-- Settles O35: no register decodes, so each pipeline raises the fatal error, and the state that leaves is halted. -/
theorem unmappedAccessIsFatal : Obligations.UnmappedAccessIsFatal := by
  intro s a d k hs hd
  refine ⟨exec_read_of_unmapped hs hd, exec_write_of_unmapped hs hd k d, fun dir => ?_⟩
  obtain ⟨hi, -⟩ := hs
  exact step_of_halted (s := fatalState a dir s) hi (fatalState_halted a dir s)

/-- Settles O36: every way of serving asks for the latch first. -/
theorem haltedBlockTakesNoRequest : Obligations.HaltedBlockTakesNoRequest := fun _ _ _ hi hh =>
  ⟨exec_of_halted hi hh, step_of_halted hi hh⟩

/-- Settles O38: the only report of a step that answers is that of a write to a read-only register, its one event. -/
theorem onlyReadOnlyReportsFromSteps : Obligations.OnlyReadOnlyReportsFromSteps := by
  intro s t h
  rcases step_unreported_or_readOnlyReported h with ⟨es, hes, hn⟩ | ⟨a, n, htrace⟩
  · exact ⟨es, hes, fun c a dir n hm => absurd hm (hn c a dir n)⟩
  · refine ⟨_, htrace, fun c a' dir n' hm => ?_⟩
    obtain ⟨rfl, -, rfl, -⟩ := by simpa using hm
    exact ⟨rfl, rfl, rfl⟩

end Sys2Proof.Machine

/-! PROOFS. The statements on the reset state (70_reset_and_hazards.md). -/

namespace Sys2Proof.Machine

/-! ### The reset values (rules R210 to R212) -/

/-- Outside the GPIO direction and latch registers, OSCCON and DEVID the reset value is 0 (rule R211). -/
theorem resetFile_get_eq_zero {r : Reg} (htris : ∀ b, r ≠ .tris b) (hlat : ∀ b, r ≠ .lat b) (hosccon : r ≠ .osccon)
    (hdevid : r ≠ .devid) : resetFile.get r = 0#32 := by
  rw [resetFile_get]
  cases r with
  | tris b => exact absurd rfl (htris b)
  | lat b => exact absurd rfl (hlat b)
  | osccon => exact absurd rfl hosccon
  | devid => exact absurd rfl hdevid
  | _ => rfl

/-- Settles O51: the register file is the table's, and the outputs are fields of INTSTAT, which is 0 there. -/
theorem resetValues : Obligations.ResetValues := by
  have hintstat : State.reset.rf.get .intstat = 0#32 := resetFile_get .intstat
  exact ⟨fun b => resetFile_get (.tris b), fun b => resetFile_get (.lat b), resetFile_get .osccon,
    resetFile_get .devid, fun _ => resetFile_get_eq_zero, rfl, rfl, congrArg (BitVec.extractLsb' 8 3) hintstat,
    congrArg (BitVec.extractLsb' 0 8) hintstat⟩

/-! ### The invariant at reset (rules R39, R210) -/

/-- The stored 0 of INTSTAT is the arbitration result: at reset no flag is set (rules R39, R210). -/
theorem reset_statusConsistent : StatusConsistent params State.reset :=
  (resetFile_get .intstat).trans (congrArg packStatus refArbitrate_reset).symm

/-- Settles O52: the block runs, INTSTAT is consistent, and every reset value meets its register's condition. -/
theorem resetMeetsInvariant : Obligations.ResetMeetsInvariant :=
  (inv_iff State.reset).mpr ⟨⟨rfl, rfl⟩, reset_statusConsistent, regInv_resetFile⟩

end Sys2Proof.Machine
